-- ==== Sys2Proof/Word.lean ====
section
/-!
DEFINITION. The word types of the MXT3010 (00_scope R7, R8; 10_state R20, R21).
-/
namespace Sys2Proof

/-- A register's contents, 16 bits (10_state R20). -/
abbrev Half := BitVec 16

/-- A byte of any memory space. -/
abbrev Byte := BitVec 8

/-- An instruction word, or a bus word (30_encoding R140). -/
abbrev Word := BitVec 32

/-- A register number of the `rd` and `rsa` fields, R0 to R63 (10_state R21). -/
abbrev Reg := Fin 64

/-- A register number of the `rsb` field, R0 to R31 (10_state R21). -/
abbrev SReg := Fin 32

end Sys2Proof
end

