-- ==== Sys2Proof/Syntax.lean ====
section
/-!
DEFINITION. The instructions: one constructor per row of spec/opcode_table.json.
Field names are those of 00_scope R11 and of the formats 30_encoding R144 to R166.
-/
namespace Sys2Proof

/-- The branch conditions of the arithmetic and logic class (30_encoding R154).
Code 010 has no name and is no condition. -/
inductive Abc where
  | none | bgez | bz | blez | blz | bnz | bno
deriving DecidableEq, Repr

/-- The source of a local address (30_encoding R152). -/
inductive Rla where
  | r48 | r49 | r50 | r51 | ga | gb | gc | gd
deriving DecidableEq, Repr

/-- The counter operation of a Branch word (30_encoding R159). -/
inductive Cso where
  | none | drxbusy | drxfull | itxbusy | itxfull
deriving DecidableEq, Repr

/-- The instructions.
`modx` is the code of 30_encoding R153; `cc` is the compare-class `abc` code, whose meaning is a
parameter (R155); the amount of `sftli` and `sftri` is the low four bits of `tcsa` (R149); `idx` is
a halfword index (R166). -/
inductive Instr where
  | add (rd : Reg) (um : Bool) (abc : Abc) (rsa : Reg) (modx : BitVec 4) (ae : Bool) (rsb : SReg)
  | sub (rd : Reg) (um : Bool) (abc : Abc) (rsa : Reg) (modx : BitVec 4) (ae : Bool) (rsb : SReg)
  | and (rd : Reg) (um : Bool) (abc : Abc) (rsa : Reg) (modx : BitVec 4) (ae : Bool) (rsb : SReg)
  | or (rd : Reg) (um : Bool) (abc : Abc) (rsa : Reg) (modx : BitVec 4) (ae : Bool) (rsb : SReg)
  | xor (rd : Reg) (um : Bool) (abc : Abc) (rsa : Reg) (modx : BitVec 4) (ae : Bool) (rsb : SReg)
  | max (rd : Reg) (um : Bool) (cc : BitVec 3) (rsa : Reg) (modx : BitVec 4) (ae : Bool)
      (rsb : SReg)
  | min (rd : Reg) (um : Bool) (cc : BitVec 3) (rsa : Reg) (modx : BitVec 4) (ae : Bool)
      (rsb : SReg)
  | addi (rd : Reg) (um : Bool) (abc : Abc) (rsa : Reg) (modx : BitVec 4) (usi : BitVec 6)
  | subi (rd : Reg) (um : Bool) (abc : Abc) (rsa : Reg) (modx : BitVec 4) (usi : BitVec 6)
  | andi (rd : Reg) (um : Bool) (abc : Abc) (rsa : Reg) (si : BitVec 10)
  | ori (rd : Reg) (um : Bool) (abc : Abc) (rsa : Reg) (si : BitVec 10)
  | xori (rd : Reg) (um : Bool) (abc : Abc) (rsa : Reg) (si : BitVec 10)
  | maxi (rd : Reg) (um : Bool) (cc : BitVec 3) (rsa : Reg) (si : BitVec 10)
  | mini (rd : Reg) (um : Bool) (cc : BitVec 3) (rsa : Reg) (si : BitVec 10)
  | cmp (cc : BitVec 3) (rsa : Reg) (ae : Bool) (rsb : SReg)
  | cmpp (cc : BitVec 3) (rsa : Reg) (ae : Bool) (rsb : SReg)
  | cmpi (cc : BitVec 3) (rsa : Reg) (si : BitVec 10)
  | cmppi (cc : BitVec 3) (rsa : Reg) (si : BitVec 10)
  | fls (rd : Reg) (um : Bool) (abc : Abc) (rsa : Reg) (ae : Bool)
  | limd (rd : Reg) (um : Bool) (li : BitVec 16)
  | sft (rd : Reg) (um : Bool) (abc : Abc) (rsa : Reg) (modx : BitVec 4) (rsb : SReg)
  | sfta (rd : Reg) (um : Bool) (abc : Abc) (rsa : Reg) (modx : BitVec 4) (rsb : SReg)
  | sftc (rd : Reg) (um : Bool) (abc : Abc) (rsa : Reg) (modx : BitVec 4) (ae : Bool) (rsb : SReg)
  | sftai (rd : Reg) (um : Bool) (abc : Abc) (rsa : Reg) (modx : BitVec 4) (usa : BitVec 4)
  | sftci (rd : Reg) (um : Bool) (abc : Abc) (rsa : Reg) (modx : BitVec 4) (ae : Bool)
      (usa : BitVec 4)
  | sftli (rd : Reg) (um : Bool) (abc : Abc) (rsa : Reg) (modx : BitVec 4) (ae : Bool)
      (amt : BitVec 4)
  | sftri (rd : Reg) (um : Bool) (abc : Abc) (rsa : Reg) (modx : BitVec 4) (ae : Bool)
      (amt : BitVec 4)
  | bi (ess : Fin 16) (sense : Bool) (c : Bool) (cso : Cso) (wadr : BitVec 12)
  | bil (ess : Fin 16) (sense : Bool) (c : Bool) (cso : Cso) (wadr : BitVec 12)
  | br (ess : Fin 16) (sense : Bool) (c : Bool) (cso : Cso)
  | brl (ess : Fin 16) (sense : Bool) (c : Bool) (cso : Cso)
  | bf (ess : Fin 16) (sense : Bool) (c : Bool) (cso : Cso)
  | bfl (ess : Fin 16) (sense : Bool) (c : Bool) (cso : Cso)
  | popc (rd : Reg) (rsb : SReg)
  | popf (rd : Reg) (rsb : SReg)
  | pushc (rsa : Reg) (rsb : SReg)
  | pushf (rsa : Reg) (rsb : SReg)
  | dma1r (bc : BitVec 8) (rla : Rla) (rsa : Reg) (ibi crcx crcy pod st : Bool) (rsb : SReg)
  | dma1w (bc : BitVec 8) (rla : Rla) (rsa : Reg) (ibi crcx crcy pod st : Bool) (rsb : SReg)
  | dma2r (bc : BitVec 8) (rla : Rla) (rsa : Reg) (ibi pod : Bool) (rsb : SReg)
  | dma2w (bc : BitVec 8) (rla : Rla) (rsa : Reg) (ibi pod : Bool) (rsb : SReg)
  | dma1rPlus (bc : BitVec 7) (rla : Rla) (rsa : Reg) (ibi crcx crcy pod st : Bool) (rsb : SReg)
  | dma1wPlus (bc : BitVec 7) (rla : Rla) (rsa : Reg) (ibi crcx crcy pod st : Bool) (rsb : SReg)
  | dma2rPlus (bc : BitVec 7) (rla : Rla) (rsa : Reg) (ibi pod : Bool) (rsb : SReg)
  | dma2wPlus (bc : BitVec 7) (rla : Rla) (rsa : Reg) (ibi pod : Bool) (rsb : SReg)
  | lmfm (rd : Reg) (lnk : Bool) (z : Bool) (rsa : Reg) (hw : BitVec 5) (rsb : SReg)
  | shfm (rsa : Reg) (rsb : SReg)
  | srh (adr : BitVec 2) (reg : BitVec 3) (rsa : Reg) (lsbs : BitVec 5) (rsb : SReg)
  | ld (rd : Reg) (rla : Rla) (swap : BitVec 2) (idx : BitVec 5)
  | ldd (rd : Reg) (rla : Rla) (swap : BitVec 2) (idx : BitVec 5)
  | st (swap : BitVec 2) (rla : Rla) (rsa : Reg) (idx : BitVec 5)
  | std (swap : BitVec 2) (rla : Rla) (rsa : Reg) (idx : BitVec 5) (rsb : SReg)
  | nop
  | mv (rd : Reg) (rsa : Reg)
  | tset (rsa : Reg) (mask : BitVec 10)
  | tclr (rsa : Reg) (mask : BitVec 10)
deriving DecidableEq, Repr

end Sys2Proof
end

