-- ==== Sys2Proof/WellFormed.lean ====
section
/-!
DEFINITION. Which terms of `Instr` are the reading of some instruction word.
A word has one reading: words that are also a pseudo-operation (41 R242 to R245) or SHFM (30 R164)
read as that, and the byte count and the "+" forms of a DMA word depend on mode bit 5 (30 R162).
-/
namespace Sys2Proof

/-- `i` is what some word reads as when mode bit 5 (DMA Plus) is `plus`. -/
def Instr.wf (plus : Bool) (i : Instr) : Bool :=
  match i with
  | .andi rd um abc _ _ => ! (rd == 36 && ! um && (abc == .bnz || abc == .bz))
  | .ori _ um abc _ si => ! (! um && abc == .none && si == 0)
  | .limd rd um li => ! (rd == 36 && ! um && li == 0)
  | .srh adr reg _ lsbs _ => ! (adr == 0 && reg == 0 && lsbs == 0)
  | .dma1r bc _ _ _ _ _ _ _ _ => ! plus || decide (bc.toNat < 128)
  | .dma1w bc _ _ _ _ _ _ _ _ => ! plus || decide (bc.toNat < 128)
  | .dma2r bc _ _ _ _ _ => ! plus || decide (bc.toNat < 128)
  | .dma2w bc _ _ _ _ _ => ! plus || decide (bc.toNat < 128)
  | .dma1rPlus _ _ _ _ _ _ _ _ _ => plus
  | .dma1wPlus _ _ _ _ _ _ _ _ _ => plus
  | .dma2rPlus _ _ _ _ _ _ => plus
  | .dma2wPlus _ _ _ _ _ _ => plus
  | _ => true

end Sys2Proof
end

