-- ==== Sys2Proof/Decode.lean ====
section
/-!
DEFINITION. Decoding an instruction word (30_encoding R140 to R169) and encoding an instruction.
-/
namespace Sys2Proof

/-! ### Bit fields and extension -/

/-- The field `w[hi:lo]` as a number (00_scope R7). -/
def fld (w hi lo : Nat) : Nat := w / 2 ^ lo % 2 ^ (hi + 1 - lo)

/-- One bit of a word. -/
def bitAt (w k : Nat) : Bool := w / 2 ^ k % 2 == 1

/-- `zext_6` (30_encoding R150). -/
def zext6 (v : BitVec 6) : Half := v.zeroExtend 16

/-- `sext_10`: bit 9 copied into bits [15:10] (30_encoding R150). -/
def sext10 (v : BitVec 10) : Half := v.signExtend 16

/-- A 6-bit register field (30_encoding R151). -/
def regAt (n : Nat) : Reg := Fin.ofNat 64 n

/-- A 5-bit register field (30_encoding R151). -/
def sregAt (n : Nat) : SReg := Fin.ofNat 32 n

/-- The big-endian bytes of an instruction word (20_memory R101). -/
def wordBytes (w : Word) : List Byte :=
  [w.extractLsb' 24 8, w.extractLsb' 16 8, w.extractLsb' 8 8, w.extractLsb' 0 8]

/-- The word of four bytes, the first the most significant (20_memory R101). -/
def wordOf (b0 b1 b2 b3 : Byte) : Word := (b0 ++ b1 ++ b2 ++ b3 : BitVec 32)

/-- The halfword of two bytes, the first the more significant (20_memory R101). -/
def halfOf (b0 b1 : Byte) : Half := (b0 ++ b1 : BitVec 16)

/-! ### Field codes -/

/-- The `abc` codes of the arithmetic and logic class; 010 is none of them (R154). -/
def abcOfCode (n : Nat) : Option Abc :=
  match n with
  | 0 => some .none
  | 1 => some .bgez
  | 3 => some .bz
  | 4 => some .blez
  | 5 => some .blz
  | 6 => some .bnz
  | 7 => some .bno
  | _ => Option.none

/-- The code of a condition (R154). -/
def abcCode : Abc → Nat
  | .none => 0
  | .bgez => 1
  | .bz => 3
  | .blez => 4
  | .blz => 5
  | .bnz => 6
  | .bno => 7

/-- The `rla` codes (R152). -/
def rlaOfCode (n : Nat) : Rla :=
  match n with
  | 0 => .r48
  | 1 => .r49
  | 2 => .r50
  | 3 => .r51
  | 4 => .ga
  | 5 => .gb
  | 6 => .gc
  | _ => .gd

/-- The code of a local address source (R152). -/
def rlaCode : Rla → Nat
  | .r48 => 0
  | .r49 => 1
  | .r50 => 2
  | .r51 => 3
  | .ga => 4
  | .gb => 5
  | .gc => 6
  | .gd => 7

/-- The `cso` codes; every other value is reserved (R159). -/
def csoOfCode (n : Nat) : Option Cso :=
  match n with
  | 0x00 => some .none
  | 0xE0 => some .drxbusy
  | 0xE1 => some .drxfull
  | 0xC2 => some .itxbusy
  | 0xC3 => some .itxfull
  | _ => Option.none

/-- The code of a counter operation (R159). -/
def csoCode : Cso → Nat
  | .none => 0x00
  | .drxbusy => 0xE0
  | .drxfull => 0xE1
  | .itxbusy => 0xC2
  | .itxfull => 0xC3

/-! ### Decoding -/

/-- Why a word is rejected, by name (30_encoding R169). -/
inductive DecodeError where
  /-- Bits [31:26], or a Cell Scheduling sub-operation, select no instruction (R142). -/
  | undefinedOpcode
  /-- Fixed bits differ under `strict_reserved`, or an `abc` or `cso` code is reserved (R143). -/
  | reservedEncoding
deriving DecidableEq, Repr

/-- What decoding answers. -/
abbrev Decoded := Except DecodeError Instr

/-- Reject unless the fixed bits are as printed, or they are not looked at (R143). -/
def fixed (strict : Bool) (asPrinted : Bool) (k : Decoded) : Decoded :=
  if strict && ! asPrinted then .error .reservedEncoding else k

/-- Read an `abc` field of the arithmetic and logic class (R154). -/
def withAbc (w : Nat) (k : Abc → Instr) : Decoded :=
  match abcOfCode (fld w 18 16) with
  | some a => .ok (k a)
  | Option.none => .error .reservedEncoding

/-- Format ALU3 with an arithmetic condition (R144). -/
def decodeAlu3 (w : Nat) (k : Reg → Bool → Abc → Reg → BitVec 4 → Bool → SReg → Instr) : Decoded :=
  withAbc w fun a => k (regAt (fld w 25 20)) (bitAt w 19) a (regAt (fld w 15 10))
    (BitVec.ofNat 4 (fld w 9 6)) (bitAt w 5) (sregAt (fld w 4 0))

/-- Format ALU3 with a compare condition: MAX and MIN (R144, R155). -/
def decodeAlu3C (w : Nat) (k : Reg → Bool → BitVec 3 → Reg → BitVec 4 → Bool → SReg → Instr) :
    Decoded :=
  .ok (k (regAt (fld w 25 20)) (bitAt w 19) (BitVec.ofNat 3 (fld w 18 16)) (regAt (fld w 15 10))
    (BitVec.ofNat 4 (fld w 9 6)) (bitAt w 5) (sregAt (fld w 4 0)))

/-- Format ALUI6 (R145). -/
def decodeAluI6 (w : Nat) (k : Reg → Bool → Abc → Reg → BitVec 4 → BitVec 6 → Instr) : Decoded :=
  withAbc w fun a => k (regAt (fld w 25 20)) (bitAt w 19) a (regAt (fld w 15 10))
    (BitVec.ofNat 4 (fld w 9 6)) (BitVec.ofNat 6 (fld w 5 0))

/-- Format ALUI10 with an arithmetic condition (R146). -/
def decodeAluI10 (w : Nat) (k : Reg → Bool → Abc → Reg → BitVec 10 → Instr) : Decoded :=
  withAbc w fun a => k (regAt (fld w 25 20)) (bitAt w 19) a (regAt (fld w 15 10))
    (BitVec.ofNat 10 (fld w 9 0))

/-- Format ALUI10 with a compare condition: MAXI and MINI (R146, R155). -/
def decodeAluI10C (w : Nat) (k : Reg → Bool → BitVec 3 → Reg → BitVec 10 → Instr) : Decoded :=
  .ok (k (regAt (fld w 25 20)) (bitAt w 19) (BitVec.ofNat 3 (fld w 18 16)) (regAt (fld w 15 10))
    (BitVec.ofNat 10 (fld w 9 0)))

/-- ANDI with the words of TSET and TCLR named as such (41 R244, R245). -/
def andiOrTest (rd : Reg) (um : Bool) (a : Abc) (rsa : Reg) (si : BitVec 10) : Instr :=
  if rd == 36 && ! um && a == .bnz then .tset rsa si
  else if rd == 36 && ! um && a == .bz then .tclr rsa si
  else .andi rd um a rsa si

/-- ORI with the words of MV named as such (41 R243). -/
def oriOrMv (rd : Reg) (um : Bool) (a : Abc) (rsa : Reg) (si : BitVec 10) : Instr :=
  if ! um && a == .none && si == 0 then .mv rd rsa else .ori rd um a rsa si

/-- LIMD with the word of NOP named as such (41 R242). -/
def limdOrNop (rd : Reg) (um : Bool) (li : BitVec 16) : Instr :=
  if rd == 36 && ! um && li == 0 then .nop else .limd rd um li

/-- SRH with the words of SHFM named as such (R164). -/
def srhOrShfm (adr : BitVec 2) (reg : BitVec 3) (rsa : Reg) (lsbs : BitVec 5) (rsb : SReg) :
    Instr :=
  if adr == 0 && reg == 0 && lsbs == 0 then .shfm rsa rsb else .srh adr reg rsa lsbs rsb

/-- Format CMPR (R147). -/
def decodeCmpR (strict : Bool) (w : Nat) : Decoded :=
  fixed strict (fld w 24 19 == 0 && fld w 9 6 == 15) <|
    let cc := BitVec.ofNat 3 (fld w 18 16)
    let rsa := regAt (fld w 15 10)
    let rsb := sregAt (fld w 4 0)
    if bitAt w 25 then .ok (.cmpp cc rsa (bitAt w 5) rsb) else .ok (.cmp cc rsa (bitAt w 5) rsb)

/-- Format CMPI (R147). -/
def decodeCmpI (strict : Bool) (w : Nat) : Decoded :=
  fixed strict (fld w 24 19 == 0) <|
    let cc := BitVec.ofNat 3 (fld w 18 16)
    let rsa := regAt (fld w 15 10)
    let si := BitVec.ofNat 10 (fld w 9 0)
    if bitAt w 25 then .ok (.cmppi cc rsa si) else .ok (.cmpi cc rsa si)

/-- FLS (R147). -/
def decodeFls (strict : Bool) (w : Nat) : Decoded :=
  fixed strict (fld w 9 6 == 15 && fld w 4 0 == 0) <|
    withAbc w fun a => .fls (regAt (fld w 25 20)) (bitAt w 19) a (regAt (fld w 15 10)) (bitAt w 5)

/-- LIMD and NOP (R148). -/
def decodeLimd (strict : Bool) (w : Nat) : Decoded :=
  fixed strict (fld w 18 16 == 0) <|
    .ok (limdOrNop (regAt (fld w 25 20)) (bitAt w 19) (BitVec.ofNat 16 (fld w 15 0)))

/-- Format SFTR without an AE bit: SFT and SFTA (R149). -/
def decodeSftR (strict : Bool) (w : Nat)
    (k : Reg → Bool → Abc → Reg → BitVec 4 → SReg → Instr) : Decoded :=
  fixed strict (! bitAt w 5) <|
    withAbc w fun a => k (regAt (fld w 25 20)) (bitAt w 19) a (regAt (fld w 15 10))
      (BitVec.ofNat 4 (fld w 9 6)) (sregAt (fld w 4 0))

/-- SFTAI: format SFTI4 with bit 5 fixed 0 and bit 4 fixed 1 (R149). -/
def decodeSftai (strict : Bool) (w : Nat) : Decoded :=
  fixed strict (! bitAt w 5 && bitAt w 4) <|
    withAbc w fun a => .sftai (regAt (fld w 25 20)) (bitAt w 19) a (regAt (fld w 15 10))
      (BitVec.ofNat 4 (fld w 9 6)) (BitVec.ofNat 4 (fld w 3 0))

/-- SFTCI: format SFTI4 with bit 4 fixed 1 (R149). -/
def decodeSftci (strict : Bool) (w : Nat) : Decoded :=
  fixed strict (bitAt w 4) <|
    withAbc w fun a => .sftci (regAt (fld w 25 20)) (bitAt w 19) a (regAt (fld w 15 10))
      (BitVec.ofNat 4 (fld w 9 6)) (bitAt w 5) (BitVec.ofNat 4 (fld w 3 0))

/-- Format SFTI5: SFTLI when `tcsa[4]` is 0, SFTRI when it is 1 (R149). -/
def decodeSft5 (w : Nat) : Decoded :=
  withAbc w fun a =>
    let rd := regAt (fld w 25 20)
    let rsa := regAt (fld w 15 10)
    let modx := BitVec.ofNat 4 (fld w 9 6)
    let amt := BitVec.ofNat 4 (fld w 3 0)
    if bitAt w 4 then .sftri rd (bitAt w 19) a rsa modx (bitAt w 5) amt
    else .sftli rd (bitAt w 19) a rsa modx (bitAt w 5) amt

/-- Format BRANCH with a target field: BI and BIL (R157). -/
def decodeBranchW (w : Nat) (k : Fin 16 → Bool → Bool → Cso → BitVec 12 → Instr) : Decoded :=
  match csoOfCode (fld w 19 12) with
  | some c => .ok (k (Fin.ofNat 16 (fld w 25 22)) (bitAt w 21) (bitAt w 20) c
      (BitVec.ofNat 12 (fld w 11 0)))
  | Option.none => .error .reservedEncoding

/-- Format BRANCH through a register: BR, BRL, BF and BFL (R157). -/
def decodeBranchR (strict : Bool) (w : Nat) (k : Fin 16 → Bool → Bool → Cso → Instr) : Decoded :=
  fixed strict (fld w 11 0 == 0) <|
    match csoOfCode (fld w 19 12) with
    | some c => .ok (k (Fin.ofNat 16 (fld w 25 22)) (bitAt w 21) (bitAt w 20) c)
    | Option.none => .error .reservedEncoding

/-- PUSHC and PUSHF (R160). -/
def decodePush (strict : Bool) (w : Nat) : Decoded :=
  let fx := fld w 25 19 == 0 && fld w 9 5 == 0
  match fld w 18 16 with
  | 0 => fixed strict fx (.ok (.pushc (regAt (fld w 15 10)) (sregAt (fld w 4 0))))
  | 1 => fixed strict fx (.ok (.pushf (regAt (fld w 15 10)) (sregAt (fld w 4 0))))
  | _ => .error .undefinedOpcode

/-- POPC and POPF (R160). -/
def decodePop (strict : Bool) (w : Nat) : Decoded :=
  let fx := ! bitAt w 19 && fld w 15 5 == 0
  match fld w 18 16 with
  | 0 => fixed strict fx (.ok (.popc (regAt (fld w 25 20)) (sregAt (fld w 4 0))))
  | 1 => fixed strict fx (.ok (.popf (regAt (fld w 25 20)) (sregAt (fld w 4 0))))
  | _ => .error .undefinedOpcode

/-- Format DMA for Port1: bit 26 is `BC[7]`, or selects the "+" form in DMA Plus mode (R161, R162). -/
def decodeDma1 (plus : Bool) (w : Nat)
    (k : BitVec 8 → Rla → Reg → Bool → Bool → Bool → Bool → Bool → SReg → Instr)
    (kp : BitVec 7 → Rla → Reg → Bool → Bool → Bool → Bool → Bool → SReg → Instr) : Decoded :=
  let rla := rlaOfCode (fld w 18 16)
  let rsa := regAt (fld w 15 10)
  let rsb := sregAt (fld w 4 0)
  if plus && bitAt w 26 then
    .ok (kp (BitVec.ofNat 7 (fld w 25 19)) rla rsa (bitAt w 9) (bitAt w 8) (bitAt w 7) (bitAt w 6)
      (bitAt w 5) rsb)
  else
    .ok (k (BitVec.ofNat 8 (fld w 26 19)) rla rsa (bitAt w 9) (bitAt w 8) (bitAt w 7) (bitAt w 6)
      (bitAt w 5) rsb)

/-- Format DMA for Port2: the CRCX, CRCY and ST positions are fixed 0 (R161, R162). -/
def decodeDma2 (strict plus : Bool) (w : Nat)
    (k : BitVec 8 → Rla → Reg → Bool → Bool → SReg → Instr)
    (kp : BitVec 7 → Rla → Reg → Bool → Bool → SReg → Instr) : Decoded :=
  fixed strict (! bitAt w 8 && ! bitAt w 7 && ! bitAt w 5) <|
    let rla := rlaOfCode (fld w 18 16)
    let rsa := regAt (fld w 15 10)
    let rsb := sregAt (fld w 4 0)
    if plus && bitAt w 26 then
      .ok (kp (BitVec.ofNat 7 (fld w 25 19)) rla rsa (bitAt w 9) (bitAt w 6) rsb)
    else
      .ok (k (BitVec.ofNat 8 (fld w 26 19)) rla rsa (bitAt w 9) (bitAt w 6) rsb)

/-- LMFM (R163). -/
def decodeLmfm (strict : Bool) (w : Nat) : Decoded :=
  fixed strict (fld w 18 17 == 0) <|
    .ok (.lmfm (regAt (fld w 25 20)) (bitAt w 19) (bitAt w 16) (regAt (fld w 15 10))
      (BitVec.ofNat 5 (fld w 9 5)) (sregAt (fld w 4 0)))

/-- SRH and SHFM (R164). -/
def decodeSrh (strict : Bool) (w : Nat) : Decoded :=
  fixed strict (fld w 25 21 == 0) <|
    .ok (srhOrShfm (BitVec.ofNat 2 (fld w 20 19)) (BitVec.ofNat 3 (fld w 18 16))
      (regAt (fld w 15 10)) (BitVec.ofNat 5 (fld w 9 5)) (sregAt (fld w 4 0)))

/-- Format LOAD: LD and LDD (R165). -/
def decodeLoad (strict : Bool) (w : Nat) (k : Reg → Rla → BitVec 2 → BitVec 5 → Instr) : Decoded :=
  fixed strict (! bitAt w 19 && fld w 15 12 == 0 && fld w 4 0 == 0) <|
    .ok (k (regAt (fld w 25 20)) (rlaOfCode (fld w 18 16)) (BitVec.ofNat 2 (fld w 11 10))
      (BitVec.ofNat 5 (fld w 9 5)))

/-- ST (R166). -/
def decodeSt (strict : Bool) (w : Nat) : Decoded :=
  fixed strict (fld w 25 22 == 0 && ! bitAt w 19 && fld w 4 0 == 0) <|
    .ok (.st (BitVec.ofNat 2 (fld w 21 20)) (rlaOfCode (fld w 18 16)) (regAt (fld w 15 10))
      (BitVec.ofNat 5 (fld w 9 5)))

/-- STD (R166). -/
def decodeStd (strict : Bool) (w : Nat) : Decoded :=
  fixed strict (fld w 25 22 == 0 && ! bitAt w 19) <|
    .ok (.std (BitVec.ofNat 2 (fld w 21 20)) (rlaOfCode (fld w 18 16)) (regAt (fld w 15 10))
      (BitVec.ofNat 5 (fld w 9 5)) (sregAt (fld w 4 0)))

/-- The opcode map (30_encoding R141) over a word as a number. -/
def decodeNat (strict plus : Bool) (w : Nat) : Decoded :=
  match fld w 31 26 with
  | 0b000000 => decodeBranchW w .bi
  | 0b000001 => decodeBranchW w .bil
  | 0b000010 => decodeBranchR strict w .br
  | 0b000011 => decodeBranchR strict w .brl
  | 0b000100 => decodeBranchR strict w .bf
  | 0b000101 => decodeBranchR strict w .bfl
  | 0b001000 => decodePush strict w
  | 0b001001 => decodePop strict w
  | 0b010000 => decodeLoad strict w .ld
  | 0b010001 => decodeLoad strict w .ldd
  | 0b010010 => decodeSt strict w
  | 0b010011 => decodeStd strict w
  | 0b010101 => decodeLmfm strict w
  | 0b010111 => decodeSrh strict w
  | 0b011000 => decodeDma1 plus w .dma1r .dma1rPlus
  | 0b011001 => decodeDma1 plus w .dma1r .dma1rPlus
  | 0b011010 => decodeDma1 plus w .dma1w .dma1wPlus
  | 0b011011 => decodeDma1 plus w .dma1w .dma1wPlus
  | 0b011100 => decodeDma2 strict plus w .dma2r .dma2rPlus
  | 0b011101 => decodeDma2 strict plus w .dma2r .dma2rPlus
  | 0b011110 => decodeDma2 strict plus w .dma2w .dma2wPlus
  | 0b011111 => decodeDma2 strict plus w .dma2w .dma2wPlus
  | 0b100000 => decodeAlu3 w .add
  | 0b100010 => decodeAlu3 w .sub
  | 0b100100 => decodeAluI6 w .addi
  | 0b100110 => decodeAluI6 w .subi
  | 0b101001 => decodeSftR strict w .sft
  | 0b101010 => decodeAlu3 w .sftc
  | 0b101011 => decodeSftR strict w .sfta
  | 0b101101 => decodeSft5 w
  | 0b101110 => decodeSftci strict w
  | 0b101111 => decodeSftai strict w
  | 0b110000 => decodeAlu3 w .and
  | 0b110001 => decodeAlu3 w .or
  | 0b110010 => decodeAlu3 w .xor
  | 0b110100 => decodeAluI10 w andiOrTest
  | 0b110101 => decodeAluI10 w oriOrMv
  | 0b110110 => decodeAluI10 w .xori
  | 0b111000 => decodeAlu3C w .max
  | 0b111001 => decodeAlu3C w .min
  | 0b111010 => decodeCmpR strict w
  | 0b111011 => decodeFls strict w
  | 0b111100 => decodeAluI10C w .maxi
  | 0b111101 => decodeAluI10C w .mini
  | 0b111110 => decodeCmpI strict w
  | 0b111111 => decodeLimd strict w
  | _ => .error .undefinedOpcode

/-- Decode a word, under `strict_reserved` and mode bit 5 (30_encoding R169). -/
def decode (strict plus : Bool) (w : Word) : Decoded := decodeNat strict plus w.toNat

/-! ### Encoding -/

/-- A one-bit field at position `k`. -/
def bitN (b : Bool) (k : Nat) : Nat := cond b 1 0 * 2 ^ k

/-- The leading fields shared by the ALU formats: opcode, rd, UM, abc, rsa (R144 to R149). -/
def aluHead (op : Nat) (rd : Reg) (um : Bool) (abc : Nat) (rsa : Reg) : Nat :=
  op * 2 ^ 26 + rd.val * 2 ^ 20 + bitN um 19 + abc * 2 ^ 16 + rsa.val * 2 ^ 10

/-- Format ALU3 (R144) and SFTR (R149). -/
def encAlu3 (op : Nat) (rd : Reg) (um : Bool) (abc : Nat) (rsa : Reg) (modx : BitVec 4) (ae : Bool)
    (rsb : SReg) : Nat :=
  aluHead op rd um abc rsa + modx.toNat * 2 ^ 6 + bitN ae 5 + rsb.val

/-- Format ALUI10 (R146). -/
def encAluI10 (op : Nat) (rd : Reg) (um : Bool) (abc : Nat) (rsa : Reg) (si : BitVec 10) : Nat :=
  aluHead op rd um abc rsa + si.toNat

/-- Formats SFTI4 and SFTI5 (R149). -/
def encSftI (op : Nat) (rd : Reg) (um : Bool) (abc : Nat) (rsa : Reg) (modx : BitVec 4) (ae : Bool)
    (top : Bool) (amt : BitVec 4) : Nat :=
  aluHead op rd um abc rsa + modx.toNat * 2 ^ 6 + bitN ae 5 + bitN top 4 + amt.toNat

/-- Format BRANCH (R157). -/
def encBranch (op : Nat) (ess : Fin 16) (sense c : Bool) (cso : Cso) (wadr : Nat) : Nat :=
  op * 2 ^ 26 + ess.val * 2 ^ 22 + bitN sense 21 + bitN c 20 + csoCode cso * 2 ^ 12 + wadr

/-- Format DMA (R161): `op` carries bits [31:27], `bc` bits [26:19]. -/
def encDma (op bc : Nat) (rla : Rla) (rsa : Reg) (ibi crcx crcy pod st : Bool) (rsb : SReg) : Nat :=
  op * 2 ^ 27 + bc * 2 ^ 19 + rlaCode rla * 2 ^ 16 + rsa.val * 2 ^ 10 + bitN ibi 9 + bitN crcx 8 +
    bitN crcy 7 + bitN pod 6 + bitN st 5 + rsb.val

/-- The word of an instruction, as a number, from the formats R144 to R166. -/
def encodeNat (i : Instr) : Nat :=
  match i with
  | .add rd um a rsa m ae rsb => encAlu3 0b100000 rd um (abcCode a) rsa m ae rsb
  | .sub rd um a rsa m ae rsb => encAlu3 0b100010 rd um (abcCode a) rsa m ae rsb
  | .and rd um a rsa m ae rsb => encAlu3 0b110000 rd um (abcCode a) rsa m ae rsb
  | .or rd um a rsa m ae rsb => encAlu3 0b110001 rd um (abcCode a) rsa m ae rsb
  | .xor rd um a rsa m ae rsb => encAlu3 0b110010 rd um (abcCode a) rsa m ae rsb
  | .max rd um cc rsa m ae rsb => encAlu3 0b111000 rd um cc.toNat rsa m ae rsb
  | .min rd um cc rsa m ae rsb => encAlu3 0b111001 rd um cc.toNat rsa m ae rsb
  | .addi rd um a rsa m usi => aluHead 0b100100 rd um (abcCode a) rsa + m.toNat * 2 ^ 6 + usi.toNat
  | .subi rd um a rsa m usi => aluHead 0b100110 rd um (abcCode a) rsa + m.toNat * 2 ^ 6 + usi.toNat
  | .andi rd um a rsa si => encAluI10 0b110100 rd um (abcCode a) rsa si
  | .ori rd um a rsa si => encAluI10 0b110101 rd um (abcCode a) rsa si
  | .xori rd um a rsa si => encAluI10 0b110110 rd um (abcCode a) rsa si
  | .maxi rd um cc rsa si => encAluI10 0b111100 rd um cc.toNat rsa si
  | .mini rd um cc rsa si => encAluI10 0b111101 rd um cc.toNat rsa si
  | .cmp cc rsa ae rsb => encAlu3 0b111010 0 false cc.toNat rsa 15 ae rsb
  | .cmpp cc rsa ae rsb => encAlu3 0b111010 32 false cc.toNat rsa 15 ae rsb
  | .cmpi cc rsa si => encAluI10 0b111110 0 false cc.toNat rsa si
  | .cmppi cc rsa si => encAluI10 0b111110 32 false cc.toNat rsa si
  | .fls rd um a rsa ae => encAlu3 0b111011 rd um (abcCode a) rsa 15 ae 0
  | .limd rd um li => 0b111111 * 2 ^ 26 + rd.val * 2 ^ 20 + bitN um 19 + li.toNat
  | .sft rd um a rsa m rsb => encAlu3 0b101001 rd um (abcCode a) rsa m false rsb
  | .sfta rd um a rsa m rsb => encAlu3 0b101011 rd um (abcCode a) rsa m false rsb
  | .sftc rd um a rsa m ae rsb => encAlu3 0b101010 rd um (abcCode a) rsa m ae rsb
  | .sftai rd um a rsa m usa => encSftI 0b101111 rd um (abcCode a) rsa m false true usa
  | .sftci rd um a rsa m ae usa => encSftI 0b101110 rd um (abcCode a) rsa m ae true usa
  | .sftli rd um a rsa m ae amt => encSftI 0b101101 rd um (abcCode a) rsa m ae false amt
  | .sftri rd um a rsa m ae amt => encSftI 0b101101 rd um (abcCode a) rsa m ae true amt
  | .bi ess s c cso wadr => encBranch 0b000000 ess s c cso wadr.toNat
  | .bil ess s c cso wadr => encBranch 0b000001 ess s c cso wadr.toNat
  | .br ess s c cso => encBranch 0b000010 ess s c cso 0
  | .brl ess s c cso => encBranch 0b000011 ess s c cso 0
  | .bf ess s c cso => encBranch 0b000100 ess s c cso 0
  | .bfl ess s c cso => encBranch 0b000101 ess s c cso 0
  | .popc rd rsb => 0b001001 * 2 ^ 26 + rd.val * 2 ^ 20 + rsb.val
  | .popf rd rsb => 0b001001 * 2 ^ 26 + rd.val * 2 ^ 20 + 2 ^ 16 + rsb.val
  | .pushc rsa rsb => 0b001000 * 2 ^ 26 + rsa.val * 2 ^ 10 + rsb.val
  | .pushf rsa rsb => 0b001000 * 2 ^ 26 + 2 ^ 16 + rsa.val * 2 ^ 10 + rsb.val
  | .dma1r bc rla rsa ibi x y pod st rsb => encDma 0b01100 bc.toNat rla rsa ibi x y pod st rsb
  | .dma1w bc rla rsa ibi x y pod st rsb => encDma 0b01101 bc.toNat rla rsa ibi x y pod st rsb
  | .dma2r bc rla rsa ibi pod rsb => encDma 0b01110 bc.toNat rla rsa ibi false false pod false rsb
  | .dma2w bc rla rsa ibi pod rsb => encDma 0b01111 bc.toNat rla rsa ibi false false pod false rsb
  | .dma1rPlus bc rla rsa ibi x y pod st rsb =>
      encDma 0b01100 (128 + bc.toNat) rla rsa ibi x y pod st rsb
  | .dma1wPlus bc rla rsa ibi x y pod st rsb =>
      encDma 0b01101 (128 + bc.toNat) rla rsa ibi x y pod st rsb
  | .dma2rPlus bc rla rsa ibi pod rsb =>
      encDma 0b01110 (128 + bc.toNat) rla rsa ibi false false pod false rsb
  | .dma2wPlus bc rla rsa ibi pod rsb =>
      encDma 0b01111 (128 + bc.toNat) rla rsa ibi false false pod false rsb
  | .lmfm rd lnk z rsa hw rsb =>
      0b010101 * 2 ^ 26 + rd.val * 2 ^ 20 + bitN lnk 19 + bitN z 16 + rsa.val * 2 ^ 10 +
        hw.toNat * 2 ^ 5 + rsb.val
  | .shfm rsa rsb => 0b010111 * 2 ^ 26 + rsa.val * 2 ^ 10 + rsb.val
  | .srh adr reg rsa lsbs rsb =>
      0b010111 * 2 ^ 26 + adr.toNat * 2 ^ 19 + reg.toNat * 2 ^ 16 + rsa.val * 2 ^ 10 +
        lsbs.toNat * 2 ^ 5 + rsb.val
  | .ld rd rla swap idx =>
      0b010000 * 2 ^ 26 + rd.val * 2 ^ 20 + rlaCode rla * 2 ^ 16 + swap.toNat * 2 ^ 10 +
        idx.toNat * 2 ^ 5
  | .ldd rd rla swap idx =>
      0b010001 * 2 ^ 26 + rd.val * 2 ^ 20 + rlaCode rla * 2 ^ 16 + swap.toNat * 2 ^ 10 +
        idx.toNat * 2 ^ 5
  | .st swap rla rsa idx =>
      0b010010 * 2 ^ 26 + swap.toNat * 2 ^ 20 + rlaCode rla * 2 ^ 16 + rsa.val * 2 ^ 10 +
        idx.toNat * 2 ^ 5
  | .std swap rla rsa idx rsb =>
      0b010011 * 2 ^ 26 + swap.toNat * 2 ^ 20 + rlaCode rla * 2 ^ 16 + rsa.val * 2 ^ 10 +
        idx.toNat * 2 ^ 5 + rsb.val
  | .nop => 0xFE400000
  | .mv rd rsa => encAluI10 0b110101 rd false 0 rsa 0
  | .tset rsa mask => encAluI10 0b110100 36 false 6 rsa mask
  | .tclr rsa mask => encAluI10 0b110100 36 false 3 rsa mask

/-- The word of an instruction. -/
def encode (i : Instr) : Word := BitVec.ofNat 32 (encodeNat i)

/-! ### The host's question -/

/-- The word whose stored bytes are the 32 bits `w`: the opcode table has one word of 32 bits. -/
def tableWord (_nbits w : Nat) : Word := BitVec.ofNat 32 w

/-- What the strict decoder reads from a word of the opcode table, with mode bit 5 set so that the
rows of the "+" forms read as such (log 19). -/
def decodeTableWord (nbits w : Nat) : Option Instr :=
  match wordBytes (tableWord nbits w) with
  | [b0, b1, b2, b3] => (decode true true (wordOf b0 b1 b2 b3)).toOption
  | _ => Option.none

end Sys2Proof
end

