-- ==== Sys2Proof/Config.lean ====
section
/-!
DEFINITION. The parameters of 92_eei_decisions Part 2, as plain data, and the free values.
-/
namespace Sys2Proof

/-- `hazard_mode` (70 R563). -/
inductive HazardMode where
  | fault | stale
deriving DecidableEq, Repr

/-- The six compare conditions of 40_alu R184. -/
inductive CmpCond where
  | bagb | bageb | baeb | baleb | balb | baneb
deriving DecidableEq, Repr

/-- `sb_bit_order` (20 R111); `unset` leaves the choice to a free value. -/
inductive SbOrder where
  | msbFirst | lsbFirst | unset
deriving DecidableEq, Repr

/-- `ae_fallthrough` (40 R186); `unset` draws at each such instruction. -/
inductive AeFallthrough where
  | reexecute | skip | unset
deriving DecidableEq, Repr

/-- The populated sizes of Fast Memory in the five configurations of 20 R102; their Mode is mode bit
4. -/
inductive FmSize where
  | k128 | k256 | k512 | m1
deriving DecidableEq, Repr

/-- Whether the check functions are the ATM ones or left open (92 D10, log 11). -/
inductive CheckFns where
  | atm | unspecified
deriving DecidableEq, Repr

/-- `unassigned_cell(L)` (50 R431): the octets of an inserted cell of each length. -/
inductive UnassignedCell where
  /-- A zero ATM Header, every other octet drawn: the default. -/
  | zeroHeader
  /-- These octets, for L = 52 and for L = 56. -/
  | given (l52 l56 : List Byte)
  /-- Octets about which nothing is known. -/
  | unspecified
deriving DecidableEq, Repr

/-- `end_of_run` (70 R580): the one-word idle loop, or a word address of the harness. -/
inductive EndOfRun where
  | idleLoop
  | atWord (w : BitVec 17)
deriving DecidableEq, Repr

/-- The parameters of the model, fixed for a run (00_scope R6, 92 Part 2). -/
structure Config where
  hazardMode : HazardMode
  strictReserved : Bool
  fmRawForwarding : Bool
  pitReloadAtZero : Bool
  /-- `abc_cmp_map`: entry k is the condition of code k (30 R155); entry 0 is not looked at. -/
  abcCmpMap : Vector (Option CmpCond) 8
  sbBitOrder : SbOrder
  aeFallthrough : AeFallthrough
  fmSize : FmSize
  /-- ICSO_A and ICSO_B at reset removal, as R63[13:12] shows them (70 R552). -/
  bootSource : BitVec 2
  /-- ICSO_D and ICSO_C at reset removal, as R63[15:14] shows them (70 R552). -/
  strapDC : BitVec 2
  /-- `rev`, R52[15:13] (10 R55). -/
  rev : BitVec 3
  txInsertAdvancesHolder : Bool
  checks : CheckFns
  unassigned : UnassignedCell
  /-- `boot_checksum`; none for the default, the sum of fields 1 to 3 (70 R553). -/
  bootChecksum : Option Half
  endOfRun : EndOfRun
deriving DecidableEq, Repr

/-- A halfword the sources do not determine (00_scope R9 `draw`): at step `n`, for use `site`. -/
opaque Config.draw16 : (n site : Nat) → Half

/-- The Scoreboard bit order where the parameter is unset (92 D38). -/
opaque Config.sbMsbFirst : Bool

/-- The HEC8 function where the check functions are left open (92 D10). -/
opaque Config.hec8 : (header : BitVec 32) → Byte

/-- The CRC-32 step where the check functions are left open (92 D10). -/
opaque Config.crc32Step : (crc : BitVec 32) → Half → BitVec 32

/-- The CRC-32 residue test where the check functions are left open (92 D10). -/
opaque Config.crc32Ok : BitVec 32 → Bool

/-- The CRC-10 function where the check functions are left open (92 D10). -/
opaque Config.crc10 : List Byte → BitVec 10

/-- Octet `k` of an unassigned cell of `len` octets where the parameter is left open (92 D10). -/
opaque Config.unassignedOctet : (len k : Nat) → Byte

/-- The documented defaults (92 Part 2); the board's parameters as log 10 names them. -/
def Config.standard : Config where
  hazardMode := .fault
  strictReserved := true
  fmRawForwarding := false
  pitReloadAtZero := false
  abcCmpMap := #v[none, some .bageb, some .bagb, some .baeb, some .baleb, some .balb, some .baneb,
    none]
  sbBitOrder := .unset
  aeFallthrough := .unset
  fmSize := .m1
  bootSource := 0b11
  strapDC := 0b00
  rev := 0b001
  txInsertAdvancesHolder := true
  checks := .atm
  unassigned := .zeroHeader
  bootChecksum := none
  endOfRun := .idleLoop

end Sys2Proof
end

