-- ==== Sys2Proof/Machine/Checks.lean ====
section
/-!
DEFINITION. The check functions: HEC8, CRC-32 and CRC-10 (92 D10).
The manual prints no polynomial; the ATM ones are PRESUMED (log 11) and `CheckFns.unspecified`
leaves each function open.
-/
namespace Sys2Proof.Machine

/-- One bit of a most-significant-bit-first CRC register with generator `poly`. -/
def crcBit {n : Nat} (poly c : BitVec n) (b : Bool) : BitVec n :=
  if c.msb != b then (c <<< 1) ^^^ poly else c <<< 1

/-- The bits of a value, most significant first. -/
def msbBits {n : Nat} (v : BitVec n) : List Bool :=
  (List.range n).map fun k => v.getMsbD k

/-- `hec8` of the four header octets (10 R82): x^8 + x^2 + x + 1, result XORed with 0x55. -/
def hec8 (c : Config) (header : BitVec 32) : Byte :=
  match c.checks with
  | .atm => (msbBits header).foldl (crcBit (0x07 : BitVec 8)) 0 ^^^ 0x55
  | .unspecified => Config.hec8 header

/-- `crc32_step` (44 R335, 51 R468): sixteen bits, most significant first. -/
def crc32Step (c : Config) (crc : BitVec 32) (h : Half) : BitVec 32 :=
  match c.checks with
  | .atm => (msbBits h).foldl (crcBit (0x04C11DB7 : BitVec 32)) crc
  | .unspecified => Config.crc32Step crc h

/-- `crc32_ok` (51 R468): the register holds the AAL5 residue. -/
def crc32Ok (c : Config) (crc : BitVec 32) : Bool :=
  match c.checks with
  | .atm => crc == 0xC704DD7B
  | .unspecified => Config.crc32Ok crc

/-- One bit of a most-significant-bit-first polynomial remainder by `poly`. -/
def remBit {n : Nat} (poly c : BitVec n) (b : Bool) : BitVec n :=
  let d := c <<< 1 ||| (if b then 1 else 0)
  if c.msb then d ^^^ poly else d

/-- `crc10` over octets (50 R431): the remainder by x^10 + x^9 + x^5 + x^4 + x + 1, initial value 0. -/
def crc10 (c : Config) (octets : List Byte) : BitVec 10 :=
  match c.checks with
  | .atm => (octets.flatMap msbBits).foldl (remBit (0x233 : BitVec 10)) 0
  | .unspecified => Config.crc10 octets

end Sys2Proof.Machine
end

