-- ==== Sys2Proof/Machine/State.lean ====
section
/-!
DEFINITION. The state of the MXT3010 as plain data (10_state; INVENTORY "State"), the reasons to stop,
and the state after reset.
-/
namespace Sys2Proof.Machine

/-- A sparse memory: (address, content) pairs, addresses strictly rising.
An address that is not listed has never been written and holds no value (log 8). -/
abbrev Sparse (α : Type) := List (Nat × α)

/-- The canonical form of a sparse memory: addresses strictly rising. -/
abbrev Memory.wf {α : Type} (m : Sparse α) : Prop := m.Pairwise fun x y => x.1 < y.1

/-- CMPSTATE (10 R27). -/
inductive CmpState where
  | gt | lt | eq
deriving DecidableEq, Repr

/-- The tags of the flow queue (10 R87). -/
inductive FlowTag where
  | seq | aslotNt | aslotT | aeNt | aeT | bslot
deriving DecidableEq, Repr

/-- How a write-delay record came to be (70 R562; 42 R265). -/
inductive RecKind where
  /-- An ALU write or a landed load. -/
  | plain
  /-- The link write of BIL, BRL or BFL. -/
  | link
  /-- The same with a nullified slot. -/
  | linkNullified
  /-- The load of R58 by a linked LMFM (45 R364; 42 R270). -/
  | shadow
deriving DecidableEq, Repr

/-- How far the HEC8 circuit is with its two inputs (10 R82; 70 R566). -/
inductive HecPhase where
  /-- No first halfword has been written in HEC mode since reset. -/
  | idle
  /-- The first halfword is in: the input is incomplete. -/
  | seeded
  /-- Both are in. -/
  | ready
deriving DecidableEq, Repr

/-- What a write-delay record is about (70 R560, R561, R566). -/
inductive RecKey where
  /-- A register of Table 3 or Table 4. -/
  | reg (r : Reg)
  /-- A mode bit, by number. -/
  | modeBit (b : Fin 16)
  /-- What R43-read shows. -/
  | r43
  /-- An event bit of R57, by number. -/
  | event (b : Fin 16)
  /-- The HEC8 computation. -/
  | hec
deriving DecidableEq, Repr

/-- A record of 70 R562: the value before the write and the two instruction counts. -/
structure Rec where
  key : RecKey
  old : Half
  e : Nat
  x : Nat
  kind : RecKind
deriving DecidableEq, Repr

/-- An LMFM load job (45 R360): `acc` counts the instructions since one accessed `rd` (R364). -/
structure LmfmJob where
  addr : Nat
  n : Nat
  rd : Reg
  lnk : Bool
  k : Nat
  acc : Option Nat
deriving DecidableEq, Repr

/-- An outstanding load or store of the internal RAM (46 R390, R396 to R399); `half` is true when
the first of two halfword accesses is done. -/
inductive LsuOp where
  | load1 (t : Half) (rd : Reg) (swap : Bool)
  | load2 (t : Half) (ra rb : Reg) (swap : Bool) (half : Bool)
  | store1 (t : Half) (v : Half)
  | store2 (t : Half) (x y : Half) (half : Bool)
deriving DecidableEq, Repr

/-- The four Cell Scheduling operations (43 R294). -/
inductive CssKind where
  | popc | popf | pushc | pushf
deriving DecidableEq, Repr

/-- An entry of the CSS instruction buffer (43 R294). -/
structure CssOp where
  kind : CssKind
  t : BitVec 14
  cid : Half
  rd : Reg
deriving DecidableEq, Repr

/-- Which CRC32 pair a Port1 command updates (44 R324). -/
inductive CrcSel where
  | none | x | y
deriving DecidableEq, Repr

/-- A DMA command (44 R323) with its progress: `pos` bytes moved and `crc` the running value once it
is `started`. -/
structure DmaCmd where
  write : Bool
  a : Half
  b : Half
  l : Half
  n : Nat
  crcSel : CrcSel
  pod : Bool
  silent : Bool
  started : Bool
  pos : Nat
  crc : BitVec 32
deriving DecidableEq, Repr

/-- A pending DMA "+" increment (44 R327): the register, its new value, the instructions since. -/
structure PlusInc where
  r : Reg
  new : Half
  age : Nat
deriving DecidableEq, Repr

/-- A cell being received (50 R427): the PHY, the cell image, the HEC octet where there is one, and
the halfwords stored. -/
structure RxCell where
  phy : BitVec 5
  img : List Byte
  hec : Option Byte
  k : Nat
deriving DecidableEq, Repr

/-- A cell being transmitted (50 R430): its control entry, the octets fetched, the halfwords
fetched. -/
structure TxCell where
  entry : BitVec 7
  img : List Byte
  k : Nat
deriving DecidableEq, Repr

/-- A cell that has left the transmitter. -/
structure SentCell where
  phy : BitVec 5
  octets : List Byte
deriving DecidableEq, Repr

/-- A move of the agenda: a step of an agent, or an act of the outside world (00 R12, 70 R581). -/
inductive Move where
  /-- The SWAN executes one instruction. -/
  | swan
  /-- The Fast Memory controller delivers one LMFM halfword (45 R360). -/
  | fmcLoad
  /-- The Fast Memory controller retires the oldest posted write (45 R360). -/
  | fmcDrain
  /-- The load/store unit makes one access (46 R390). -/
  | lsu
  /-- The Cell Scheduling System performs one operation (43 R294). -/
  | css
  /-- The Port1 controller makes one step. -/
  | dma1
  /-- The Port2 controller makes one step. -/
  | dma2
  /-- P1ABORT_ ends the active Port1 command (51 R467). -/
  | p1Abort
  /-- Another master changes a byte of the Port1 space (51 R473). -/
  | p1Poke (addr : Nat) (b : Byte)
  /-- Another master changes a byte of the Port2 burst or non-burst space (51 R473). -/
  | p2Poke (burst : Bool) (addr : Nat) (b : Byte)
  /-- A PHY offers a cell and the receiver accepts it (50 R427, R437). -/
  | rxOffer (phy : BitVec 5) (octets : List Byte)
  /-- The receiver stores its next halfword (50 R427). -/
  | rx
  /-- A PHY accepts a cell and the transmitter starts it (50 R430, R437). -/
  | txReady (phy : BitVec 5)
  /-- The transmitter reads its next halfword (50 R430). -/
  | tx
  /-- A clock event of an interval timer (60 R531). -/
  | pit (k : Fin 2)
  /-- The ICSI pins change (52 R498). -/
  | icsi (pins : BitVec 4)
  /-- The ICSI latch samples its pins (52 R498). -/
  | icsLatch
  /-- The host writes COMMIN (52 R493). -/
  | comminWrite (v : BitVec 32)
  /-- The host reads COMMOUT (52 R493). -/
  | commoutRead
deriving DecidableEq, Repr

/-- Who moves when the agenda is empty (log 14). -/
inductive Turn where
  | swan | helpers
deriving DecidableEq, Repr

/-- The state of the machine. -/
@[ext]
structure State where
  /-- The parameters, fixed for a run. -/
  cfg : Config
  /-- R0 to R63 by number: R40 and R41 are the mailbox COMM, R54 and R55 the timer counts, R57 its
  event and ICSO bits; the cells of R36, R42 and R43, which have no plain storage, stay 0. -/
  regs : Vector Half 64
  /-- The mode bits of R42-write (10 R43). -/
  mode : Half
  /-- The transmit control FIFO of R43-write (10 R46, R79). -/
  fifo : Vector (BitVec 7) 8
  fifoWr : Fin 8
  fifoRd : Fin 8
  /-- The configuration options R43w[13:8] (10 R46). -/
  opts : BitVec 6
  /-- The mailbox flags (10 R39). -/
  cinBusy : Bool
  coutRdy : Bool
  /-- What ESS6 and ESS7 showed before the SWAN's last access to R40, with the instructions since
  (52 R494). -/
  cinLag : Option (Bool × Nat)
  coutLag : Option (Bool × Nat)
  /-- The count initialization values of PIT0 and PIT1 (10 R81). -/
  pitInit0 : Half
  pitInit1 : Half
  /-- The Overflow flag (10 R25). -/
  ovf : Bool
  /-- The Assigned Cell flag (10 R26). -/
  acf : Bool
  /-- CMPSTATE (10 R27). -/
  cmpState : CmpState
  /-- The program counter, a word address (10 R23). -/
  pc : BitVec 17
  /-- The flow queue and the tag of the instruction at `pc` (10 R87). -/
  fq : List (BitVec 17 × FlowTag)
  ctag : FlowTag
  /-- The page number w[16:11] last fetched through the cache under each tag w[14:11] (20 R125). -/
  icPages : Sparse Nat
  /-- The words fetched through the cache, and whether each was written since (20 R125). -/
  icWords : Sparse Bool
  /-- `lfm_linked_adrs[19:1]` and `lfm_adrs_mask[3:0]` (10 R71). -/
  linkAdrs : BitVec 19
  linkMask : BitVec 4
  /-- The CRCX and CRCY address holding registers (10 R72). -/
  holdX : BitVec 20
  holdY : BitVec 20
  /-- The Fast Memory write buffer, oldest first (10 R73). -/
  wbuf : List (Nat × Half)
  /-- The LMFM load jobs, oldest first (45 R360). -/
  fmJobs : List LmfmJob
  /-- The load/store unit's list, oldest first (46 R390). -/
  lsu : List LsuOp
  /-- The CSS instruction buffer, oldest first (10 R75). -/
  cssq : List CssOp
  /-- The DMA commands of Port1 and Port2: active stage, queue stage, SWAN entry (10 R76). -/
  q1 : List DmaCmd
  q2 : List DmaCmd
  /-- The Port1 odd-byte residue (10 R77). -/
  residue : Option Byte
  /-- The UTOPIA cell counters (10 R78). -/
  rxbusy : Nat
  rxfull : Nat
  txbusy : Nat
  txfull : Nat
  /-- The receive and transmit cell-holder indices and the cells in progress (10 R79). -/
  rxIdx : Nat
  txIdx : Nat
  rxCell : Option RxCell
  txCell : Option TxCell
  /-- Port2 DMAs completed (10 R80). -/
  dma2Count : BitVec 3
  /-- The HEC8 inputs, and how far the circuit is with them (10 R82; 70 R566). -/
  hecA : Half
  hecB : Half
  hecPhase : HecPhase
  /-- The write-delay records (70 R562). -/
  recs : List Rec
  /-- The pending DMA "+" increments (44 R327). -/
  plus : List PlusInc
  /-- The rla register used by the last instruction, and the one a load into a hardware register
  followed (70 R565(b)). -/
  rlaPrev : Option Reg
  rlaTrap : Option Reg
  /-- The destination of a POPC that was the last instruction (43 R295). -/
  popcShadow : Option Reg
  /-- A Branch instruction was executed while R53 and the segment of the pc differ, and nothing but
  its committed slot since (10 R24(d)). -/
  segBranch : Bool
  /-- Instructions since the last POPF, while fewer than three (43 R296). -/
  popfAge : Option Nat
  /-- The port (1 or 2) of a DMA instruction that was the last instruction, with the number of its
  commands before it (44 R322). -/
  dmaLag : Option (Fin 2 × Nat)
  /-- Fast Memory, Cell Buffer RAM, and the Scoreboard by slot number (10 R84; 43 R291). -/
  fm : Sparse Byte
  cb : Sparse Byte
  sb : Sparse Bool
  /-- The Port1 space and the Port2 burst and non-burst spaces as last left (20 R123, log 17). -/
  p1 : Sparse Byte
  p2b : Sparse Byte
  p2n : Sparse Byte
  /-- The ICSI pins D to A, and their level at the previous sample (52 R498). -/
  icsi : BitVec 4
  icsiPrev : BitVec 4
  /-- The rising edges of ICSI_D and ICSI_C that no tick of PIT0 or PIT1 has used (60 R531; log 30). -/
  pitEdges0 : Nat
  pitEdges1 : Nat
  /-- The cells the transmitter has sent, newest first. -/
  sent : List SentCell
  /-- The SWAN issues nothing more (10 R35; log 16). -/
  stuck : Bool
  /-- The moves to come (log 14). -/
  agenda : List Move
  turn : Turn
  /-- How many free values have been drawn (log 13). -/
  draws : Nat
deriving DecidableEq, Repr

/-- The model faults (60_exceptions R535).
Each is raised by the agent named in the rule and ends the run; none is a hardware event.
All are safe: where the hardware goes on in some unstated way, the model stops. -/
inductive Fault where
  /-- Bits [31:26] or the Cell Scheduling sub-operation select no instruction (30 R142). -/
  | undefinedOpcode
  /-- Fixed or reserved bits, or an undefined code (30 R143, R155, R159; 44 R326; 45 R363). -/
  | reservedEncoding
  /-- A register outside the class the instruction accepts (43 R295; 44 R323; 46 R397). -/
  | operandClass
  /-- A destination with no write side (10 R65). -/
  | writeReadOnly
  /-- Ones written to bits that should be written as zeroes (10 R29, R56). -/
  | reservedFieldWrite
  /-- A reserved mode bit set (10 R43). -/
  | reservedModeBit
  /-- A reduction mask that is not in the table (10 R68). -/
  | reservedReductionMask
  /-- A byte or bit of RAM, or an instruction word, that nothing has written (20 R100, log 8), or the
  HEC of an incomplete input (70 R566). -/
  | unwrittenRead
  /-- R53[4:0] differs from the segment of the pc (10 R24). -/
  | segmentMismatch
  /-- Sequential advance past offset 0xFFF (10 R24). -/
  | segmentOverrun
  /-- An instruction that should not stand in a slot (10 R87). -/
  | slotRestriction
  /-- A branch in a slot whose order of execution no source gives (10 R87). -/
  | nestedBranch
  /-- A sign test under modulo (40 R183, R184). -/
  | moduloSignBranch
  /-- A shift amount where text and table differ (41 R232). -/
  | shiftAmountAmbiguous
  /-- A discarded word that reads R40 (40 R185). -/
  | discardedCommRead
  /-- R59 read right after a linking branch with a nullified slot (42 R265). -/
  | linkHazard
  /-- A fetch the cache might answer with another word (20 R125). -/
  | iCacheStale
  /-- A Fast Memory address beyond the populated size (20 R102). -/
  | fmOutOfRange
  /-- An odd Fast Memory data address (20 R104). -/
  | fmOddAddress
  /-- An LMFM burst across a 32-byte boundary (45 R363). -/
  | fmBurstCross
  /-- A multiple-halfword burst that is not 4-byte aligned (45 R363). -/
  | fmBurstAlign
  /-- The Z option with a destination its table does not list (45 R362). -/
  | zbitDestination
  /-- An LMFM destination run past R63 (45 R364). -/
  | lmfmRegisterRange
  /-- LMFM destinations touched out of order (45 R364). -/
  | lmfmOrder
  /-- LNK with more halfwords than can be linked (45 R368). -/
  | linkLimit
  /-- LNK with a base that is not aligned (45 R368). -/
  | linkMisaligned
  /-- CRC registers or a holding register touched while a command uses them (44 R335, R338). -/
  | crcPairBusy
  /-- A local address outside the gather window (20 R110). -/
  | gatherOutOfRange
  /-- A halfword swap on a single load or store (46 R393). -/
  | swapUndefined
  /-- A swap on the Scoreboard (46 R393). -/
  | scoreboardSwap
  /-- A halfword store to the Scoreboard (46 R398). -/
  | scoreboardHalfwordStore
  /-- A "+" form on a constant (10 R49). -/
  | rlaConstantIncrement
  /-- An rla register touched inside the window of an increment (44 R327). -/
  | rlaIncrementHazard
  /-- ESS11 to ESS14 tested right after the DMA instruction (44 R322). -/
  | dmaStatusLag
  /-- A DMA past the end of its local space (44 R328). -/
  | dmaLocalRange
  /-- An odd address where the port moves halfwords (44 R331, R332). -/
  | dmaAlignment
  /-- A Port1 transfer across a 64K boundary (51 R461). -/
  | port1Cross64K
  /-- A Port2 non-burst count other than one halfword (44 R332). -/
  | port2NonBurstCount
  /-- A Port2 burst past the end of its space (51 R463). -/
  | port2AddressRange
  /-- A silent transfer of no described form (44 R334). -/
  | silentReadForm
  /-- A UTOPIA counter would leave its range (10 R78). -/
  | counterRange
  /-- A UTOPIA configuration the manual excludes (50 R422, R423, R436). -/
  | utopiaConfig
  /-- The CSS is busy while its configuration or Scoreboard is changed (43 R294, R300). -/
  | cssConfigBusy
  /-- A CSS instruction while CR is 1 (43 R299). -/
  | cssInReset
  /-- The destination of a POPC named by the next instruction (43 R295). -/
  | popcShadowAccess
  /-- POPF instructions closer than three instructions (43 R296). -/
  | popfSpacing
  /-- ESS6 or ESS7 tested too soon after an access to R40 (52 R494). -/
  | commFlagLag
  /-- R40 or R41 written while CIN_BUSY is 1 (52 R495). -/
  | commCollision
  /-- A register used inside its write-to-use window (70 R563); number and count. -/
  | writeDelayHazard (r e : Nat)
  /-- A load into a hardware register in a forbidden position (70 R565). -/
  | loadHardwareRegisterHazard
  /-- The HEC read before it is valid (70 R566). -/
  | hecResultEarly
  /-- R61 read while a CSS operation is in progress (70 R567). -/
  | scheduledAddressEarly
  /-- A clock event of a timer with initialization value 0 (60 R530). -/
  | pitZeroPeriod
  /-- A boot image that breaks a stated limit (70 R558). -/
  | bootImage
deriving DecidableEq, Repr

/-- Why an instruction has no meaning. -/
inductive Refusal where
  /-- Raised by the dispatch of an instruction that is not modelled yet; safe. -/
  | notModelled (mnemonic : String)
deriving DecidableEq, Repr

/-- The registers after reset: the values of 10 R28 and R86, 0 where the manual gives none (logs 1
to 3), and R63 with the straps and boot source of `c` (10 R67). -/
def resetRegs (c : Config) : Vector Half 64 :=
  ((((((Vector.replicate 64 (0 : Half)).set 33 0xFFFF).set 34 0xFF00).set 35 0x0040).set 60
    0x00FF).set 63 (c.strapDC ++ c.bootSource ++ (0 : BitVec 12) : BitVec 16))

/-- The state after reset under the parameters `c`, with no image loaded (10 R86; logs 4 to 9); the ICSI
pins and their last sample are low (log 43). -/
def State.initial (c : Config) : State where
  cfg := c
  regs := resetRegs c
  mode := 0
  fifo := Vector.replicate 8 0
  fifoWr := 0
  fifoRd := 0
  opts := 0
  cinBusy := false
  coutRdy := true
  cinLag := none
  coutLag := none
  pitInit0 := 0
  pitInit1 := 0
  ovf := false
  acf := false
  cmpState := .eq
  pc := 0
  fq := []
  ctag := .seq
  icPages := []
  icWords := []
  linkAdrs := 0
  linkMask := 0
  holdX := 0
  holdY := 0
  wbuf := []
  fmJobs := []
  lsu := []
  cssq := []
  q1 := []
  q2 := []
  residue := none
  rxbusy := 0
  rxfull := 0
  txbusy := 0
  txfull := 0
  rxIdx := 0
  txIdx := 0
  rxCell := none
  txCell := none
  dma2Count := 0
  hecA := 0
  hecB := 0
  hecPhase := .idle
  recs := []
  plus := []
  rlaPrev := none
  rlaTrap := none
  popcShadow := none
  segBranch := false
  popfAge := none
  dmaLag := none
  fm := []
  cb := []
  sb := []
  p1 := []
  p2b := []
  p2n := []
  icsi := 0
  icsiPrev := 0
  pitEdges0 := 0
  pitEdges1 := 0
  sent := []
  stuck := false
  agenda := []
  turn := .swan
  draws := 0

/-- The machine right after reset (10 R86), with the documented parameters. -/
def State.reset : State := State.initial Config.standard

end Sys2Proof.Machine
end

