-- ==== Sys2Proof/Machine/Ops.lean ====
section
/-!
DEFINITION. The named operations over memory and registers: reading and writing a sparse memory,
the read side and the write side of every register, the write-delay windows and the scoreboard, and
the completion of an instruction.
There is no exception entry and no return from one: the hardware has neither (60 R520, R525).
-/
namespace Sys2Proof.Machine

/-! ### Stopping -/

/-- Why a step does not complete its instruction (60 R521). -/
inductive Stop where
  /-- A model fault. -/
  | fault (f : Fault)
  /-- `stall until`: the instruction waits for an agent (00 R9). -/
  | stall
  /-- The SWAN is stuck (10 R35). -/
  | stuck
deriving DecidableEq, Repr

/-- A check, or a value that may stop the instruction. -/
abbrev Check (α : Type) := Except Stop α

/-- Raise a fault when `c` holds. -/
def raiseIf (c : Bool) (f : Fault) : Check Unit := if c then .error (.fault f) else .ok ()

/-- `stall until` the negation of `c`. -/
def stallIf (c : Bool) : Check Unit := if c then .error .stall else .ok ()

/-- A SWAN step that waits: only the scheduling fields change (00 R9). -/
def waiting (s : State) : State := { s with turn := .helpers, draws := s.draws + 1 }

/-- The outcome of an instruction: its next state, a wait, a stuck SWAN or a fault (60 R521). -/
def complete (s : State) (r : Check State) : Host.Outcome State Fault Refusal :=
  match r with
  | .ok t => .next t
  | .error (.fault f) => .fault f
  | .error .stall => .next (waiting s)
  | .error .stuck => .next { waiting s with stuck := true }

/-! ### Sparse memory -/

/-- What an address holds; nothing when it was never written (log 8). -/
def Memory.read {α : Type} : Sparse α → Nat → Option α
  | [], _ => none
  | (k, v) :: m, a => if k = a then some v else Memory.read m a

/-- Write one address, keeping the canonical form. -/
def Memory.write {α : Type} : Sparse α → Nat → α → Sparse α
  | [], a, v => [(a, v)]
  | (k, w) :: m, a, v =>
    if a < k then (a, v) :: (k, w) :: m
    else if a = k then (a, v) :: m
    else (k, w) :: Memory.write m a v

/-- Make one address unwritten again. -/
def Memory.erase {α : Type} (m : Sparse α) (a : Nat) : Sparse α := m.filter fun c => c.1 != a

/-- The big-endian halfword at byte address `a` (20 R101). -/
def readHalf (m : Sparse Byte) (a : Nat) : Option Half := do
  let b0 ← Memory.read m a
  let b1 ← Memory.read m (a + 1)
  pure (halfOf b0 b1)

/-- Write the big-endian halfword at byte address `a` (20 R101). -/
def writeHalf (m : Sparse Byte) (a : Nat) (v : Half) : Sparse Byte :=
  Memory.write (Memory.write m a (v.extractLsb' 8 8)) (a + 1) (v.extractLsb' 0 8)

/-- The big-endian word at byte address `a` (20 R101). -/
def readWord (m : Sparse Byte) (a : Nat) : Option Word := do
  let b0 ← Memory.read m a
  let b1 ← Memory.read m (a + 1)
  let b2 ← Memory.read m (a + 2)
  let b3 ← Memory.read m (a + 3)
  pure (wordOf b0 b1 b2 b3)

/-- Write the big-endian word at byte address `a` (20 R101). -/
def writeWord (m : Sparse Byte) (a : Nat) (w : Word) : Sparse Byte :=
  writeHalf (writeHalf m a (w.extractLsb' 16 16)) (a + 2) (w.extractLsb' 0 16)

/-! ### Free values -/

/-- A halfword no source determines (00 R9 `draw`), for use `site` of this step. -/
def draw (s : State) (site : Nat) : Half := Config.draw16 s.draws site

/-- A bit no source determines. -/
def drawBit (s : State) (site : Nat) : Bool := (draw s site).getLsbD 0

/-- A byte no source determines. -/
def drawByte (s : State) (site : Nat) : Byte := (draw s site).extractLsb' 0 8

/-- A CMPSTATE no source determines; it takes the sites `site` and `site + 1`. -/
def drawCmp (s : State) (site : Nat) : CmpState :=
  if drawBit s site then .eq else if drawBit s (site + 1) then .gt else .lt

/-! ### Plain views of the state -/

/-- Mode bit `b` (10 R43). -/
def modeBit (s : State) (b : Nat) : Bool := s.mode.getLsbD b

/-- The cell count of a UTOPIA size field (50 R423). -/
def bufSize (f : Nat) : Nat := if f = 0 then 0 else f + 1

/-- `rxsize`, from a value of R62 (50 R423). -/
def rxSizeOf (v : Half) : Nat := bufSize (v.extractLsb' 1 3).toNat

/-- `txsize`, from a value of R62 (50 R423). -/
def txSizeOf (v : Half) : Nat := bufSize (v.extractLsb' 4 3).toNat

/-- CRC32PRX (10 R47). -/
def crcX (s : State) : BitVec 32 := s.regs[45] ++ s.regs[44]

/-- CRC32PRY (10 R47). -/
def crcY (s : State) : BitVec 32 := s.regs[47] ++ s.regs[46]

/-- The read side of R57 with the CRC pairs `x` and `y`: bit 8 is 0 while the receiver is in reset mode,
as 70 R551 evaluates it (10 R59, R61; 51 R468; log 51). -/
def r57Read (s : State) (x y : BitVec 32) : Half :=
  (s.regs[57] &&& 0xFC3F) |||
    (if s.txbusy = 0 then 0 else 0x0200) |||
    (if rxSizeOf s.regs[62] ≠ 0 ∧ s.rxfull = rxSizeOf s.regs[62] then 0x0100 else 0) |||
    (if crc32Ok s.cfg x then 0 else 0x0080) |||
    (if crc32Ok s.cfg y then 0 else 0x0040)

/-- External State Signal `k` (10 R41, R75, R76, R78; 44 R322). -/
def ess (s : State) (k : Fin 16) : Bool :=
  match k.val with
  | 0 => s.icsi.getLsbD 0
  | 1 => s.icsi.getLsbD 1
  | 2 => decide (s.txfull ≤ 2)
  | 3 => decide (4 ≤ s.rxbusy)
  | 4 => s.acf
  | 5 => ! s.cssq.isEmpty
  | 6 => s.cinBusy
  | 7 => s.coutRdy
  | 8 => s.regs[57] &&& 0x003F != 0
  | 9 => s.rxbusy != 0
  | 10 => s.txfull == txSizeOf s.regs[62]
  | 11 => decide (1 ≤ s.q1.length)
  | 12 => decide (1 ≤ s.q2.length)
  | 13 => decide (2 ≤ s.q1.length)
  | 14 => decide (2 ≤ s.q2.length)
  | _ => true

/-- The bits of a halfword in the opposite order (10 R45). -/
def reverseBits (v : Half) : Half := BitVec.ofBoolListLE (msbBits v)

/-- The read side of R43 in bit-swap mode, or with mode bit 8 set (10 R45). -/
def r43Read (s : State) (special : Bool) : Half :=
  if special then
    let urx := if s.opts.getLsbD 1 then s.rxfull else s.rxbusy
    let utx := if s.opts.getLsbD 0 then s.txfull else s.txbusy
    ((draw s 3).extractLsb' 14 2 ++ s.dma2Count ++ (draw s 3).extractLsb' 8 3 ++
      BitVec.ofNat 4 urx ++ BitVec.ofNat 4 utx : BitVec 16)
  else reverseBits s.regs[56]

/-- The HEC8 result (10 R82). -/
def hecResult (s : State) : Byte := hec8 s.cfg (s.hecA ++ s.hecB)

/-- The number of the register selected by an `rla` field, if it is one (30 R152). -/
def rlaReg : Rla → Option Reg
  | .r48 => some 48
  | .r49 => some 49
  | .r50 => some 50
  | .r51 => some 51
  | _ => none

/-! ### The write-delay windows (70 R560 to R566) -/

/-- The record of a key, if any (70 R562). -/
def recOf (s : State) (k : RecKey) : Option Rec := s.recs.find? fun r => r.key = k

/-- The register number a window fault names. -/
def keyReg : RecKey → Nat
  | .reg r => r.val
  | .modeBit _ => 42
  | .r43 => 43
  | .event _ => 57
  | .hec => 33

/-- The draw site of a stale use, one for each key (70 R563(a), log 13). -/
def keySite : RecKey → Nat
  | .reg r => 100 + r.val
  | .modeBit b => 300 + b.val
  | .r43 => 164
  | .event b => 320 + b.val
  | .hec => 165

/-- The fault of a use inside its window (70 R563(a), R566; 42 R265). -/
def windowStop (s : State) (r : Rec) (d : Nat) : Check Unit :=
  if r.kind = .linkNullified ∧ r.e = 0 ∧ r.x = 0 then .error (.fault .linkHazard)
  else if d ≤ r.e + r.x then .error (.fault .loadHardwareRegisterHazard)
  else match s.cfg.hazardMode with
    | .stale => .ok ()
    | .fault =>
      match r.key with
      | .hec => .error (.fault .hecResultEarly)
      | k => .error (.fault (.writeDelayHazard (keyReg k) r.e))

/-- Check a use of `k` that needs `d` intervening instructions (70 R563(a)). -/
def useCheck (s : State) (k : RecKey) (d : Nat) : Check Unit :=
  match recOf s k with
  | none => .ok ()
  | some r => if d ≤ r.e then .ok () else windowStop s r d

/-- What a use sees: the value `cur`, or the stale or drawn one inside the window (70 R563(a)). -/
def useVal (s : State) (k : RecKey) (d : Nat) (cur : Half) : Half :=
  match recOf s k with
  | none => cur
  | some r =>
    if d ≤ r.e then cur
    else if r.e = 0 then r.old
    else if drawBit s (keySite k) then r.old else cur

/-- Make or replace the record of a key (70 R562). -/
def addRec (s : State) (k : RecKey) (old : Half) (kind : RecKind) : State :=
  { s with recs := { key := k, old := old, e := 0, x := 0, kind := kind } ::
      s.recs.filter fun r => r.key ≠ k }

/-- Check a use of mode bit `b` (70 R561). -/
def modeUse (s : State) (b : Fin 16) : Check Unit := useCheck s (.modeBit b) 2

/-- Mode bit `b` as a use sees it (70 R561, R563(a)). -/
def modeVal (s : State) (b : Fin 16) : Bool :=
  (useVal s (.modeBit b) 2 (if modeBit s b.val then 1 else 0)).getLsbD 0

/-! ### The scoreboard and the other access rules -/

/-- LMFM's interlocked destinations (45 R364(a)). -/
def lmfmInterlocked (j : LmfmJob) (r : Reg) : Bool :=
  (decide (j.rd.val + j.k ≤ r.val) && decide (r.val < j.rd.val + j.n) &&
    (r == j.rd || (decide (16 ≤ r.val) && decide (r.val ≤ 31)))) ||
  (j.lnk && j.k == 0 && r == 58)

/-- LMFM's ordered destinations that are still to be delivered (45 R364(b)). -/
def lmfmOrdered (j : LmfmJob) (r : Reg) : Bool :=
  decide (j.rd.val + j.k ≤ r.val) && decide (r.val < j.rd.val + j.n) && r != j.rd &&
    ! (decide (16 ≤ r.val) && decide (r.val ≤ 31))

/-- A pending destination of a load or store operation (46 R395). -/
def lsuPending (o : LsuOp) (r : Reg) : Bool :=
  match o with
  | .load1 _ rd _ => r == rd
  | .load2 _ ra rb _ half => r == rb || (r == ra && ! half)
  | .store1 _ _ => false
  | .store2 _ _ _ _ => false

/-- A pending destination of a CSS operation (43 R294). -/
def cssPending (o : CssOp) (r : Reg) : Bool := o.kind == .popc && r == o.rd

/-- The pending-write mark of a register (10 R83): some agent owes it a value. -/
def pending (s : State) (r : Reg) : Bool :=
  s.fmJobs.any (fun j => lmfmInterlocked j r) || s.lsu.any (fun o => lsuPending o r) ||
    s.cssq.any (fun o => cssPending o r)

/-- Access to an ordered LMFM destination (45 R364(b)): too early it is a fault, otherwise it waits
for the delivery. -/
def orderCheck (s : State) (r : Reg) : Check Unit :=
  match s.fmJobs.find? fun j => lmfmOrdered j r with
  | none => .ok ()
  | some j =>
    match j.acc with
    | none => .error (.fault .lmfmOrder)
    | some a => if r.val - j.rd.val ≤ a + 1 then .error .stall else .error (.fault .lmfmOrder)

/-- What an access to a register checks: the slot after POPC (43 R295), the scoreboard (70 R563(b)),
the order of LMFM destinations (45 R364). -/
def accessOne (s : State) (r : Reg) : Check Unit := do
  raiseIf (s.popcShadow == some r) .popcShadowAccess
  stallIf (pending s r)
  orderCheck s r

/-- The registers whose reads and writes look at a mode bit (70 R561): R42 is their implied operand. -/
def needsMode (r : Reg) : Bool := [32, 33, 43, 54, 55].contains r.val

/-- What every access to a register checks, with the implied operand R42 (70 R563(b); 45 R364). -/
def accessCheck (s : State) (r : Reg) : Check Unit := do
  accessOne s r
  if needsMode r then accessOne s 42

/-- Check an implied use of register `r` that needs `d` intervening instructions (70 R561, R563). -/
def impliedUse (s : State) (r : Reg) (d : Nat) : Check Unit := do
  accessOne s r
  useCheck s (.reg r) d

/-- Check an instruction's own use of mode bit `b` (70 R561, R563). -/
def modeRead (s : State) (b : Fin 16) : Check Unit := do
  accessOne s 42
  modeUse s b

/-- The fetch of an instruction is a use of mode bit 4 (70 R561). As a hazard it is a fault of an implicit
source, which comes after the named sources (60 R523(6); log 25). -/
def fetchUse (s : State) : Check Unit := modeUse s 4

/-- The pending "+" increment of a register (44 R327). -/
def plusOf (s : State) (r : Reg) : Option PlusInc := s.plus.find? fun p => p.r = r

/-- Some outstanding Port1 command owns CRC32PRX, or CRC32PRY (44 R335). -/
def crcOwned (s : State) (sel : CrcSel) : Bool := s.q1.any fun c => c.crcSel == sel

/-- What class of instruction uses a register (70 R560). -/
inductive Use where
  | alu | dma | other
  /-- A Branch instruction, of its target register (42 R264). -/
  | branch
deriving DecidableEq, Repr

/-- A use that need not wait after a write of this kind: ALU and DMA instructions after an ordinary one
(70 R560), and also BF and BFL after the load of a linked LMFM (42 R270; 70 R568 line 21). -/
def exempt (u : Use) (k : RecKind) : Bool :=
  match k with
  | .plain => u == .alu || u == .dma
  | .shadow => u != .other
  | .link => false
  | .linkNullified => false

/-- Check a use of a Table 3 register, where it is not exempt (70 R560; 42 R265, R270). -/
def table3Use (s : State) (u : Use) (r : Reg) : Check Unit :=
  match recOf s (.reg r) with
  | none => .ok ()
  | some c =>
    if exempt u c.kind then .ok ()
    else if 1 ≤ c.e then .ok () else windowStop s c 1

/-- What a use of a Table 3 register sees. -/
def table3Val (s : State) (u : Use) (r : Reg) : Half :=
  match recOf s (.reg r) with
  | none => s.regs[r]
  | some c =>
    if exempt u c.kind then s.regs[r]
    else if 1 ≤ c.e then s.regs[r] else c.old

/-- Check a use of an rla register against a pending increment (44 R327). -/
def plusUse (s : State) (r : Reg) : Check Unit :=
  match plusOf s r with
  | none => .ok ()
  | some p => raiseIf (p.age == 1 && s.cfg.hazardMode == .fault) .rlaIncrementHazard

/-- The value of an rla register with a pending increment (44 R327): old, then either, then new. -/
def plusVal (s : State) (r : Reg) (v : Half) : Half :=
  match plusOf s r with
  | none => v
  | some p => if p.age = 0 then v else if drawBit s 4 then v else p.new

/-- Check that ESS6 or ESS7 has caught up with the SWAN's own access (52 R494). -/
def lagCheck (s : State) (l : Option (Bool × Nat)) : Check Unit :=
  raiseIf (l.isSome && s.cfg.hazardMode == .fault) .commFlagLag

/-- ESS6 or ESS7 while it may lag behind the flag (52 R494). -/
def lagVal (s : State) (l : Option (Bool × Nat)) (site : Nat) (cur : Bool) : Bool :=
  match l with
  | none => cur
  | some (old, _) => if drawBit s site then old else cur

/-- The instruction just before was a DMA instruction to this port (44 R322). -/
def dmaLagged (s : State) (port : Fin 2) : Bool :=
  match s.dmaLag with
  | some (p, _) => p == port
  | none => false

/-- Check a look at an ESS bit of a port's queue (44 R322). -/
def dmaLagCheck (s : State) (port : Fin 2) : Check Unit :=
  raiseIf (dmaLagged s port && s.cfg.hazardMode == .fault) .dmaStatusLag

/-- An ESS bit of a port's queue, drawn while its last command may not show yet (44 R322). Both bits of
the port show the same count, the one before or the one after (log 13). -/
def dmaEss (s : State) (port : Fin 2) (need cur : Nat) : Bool :=
  match s.dmaLag with
  | some (p, before) =>
    if p = port then
      if drawBit s 12 then decide (need ≤ before) else decide (need ≤ cur)
    else decide (need ≤ cur)
  | none => decide (need ≤ cur)

/-- ESS `k` as R42-read shows it: the mailbox flags and the DMA status may lag (52 R494; 44 R322). -/
def essSeen (s : State) (k : Fin 16) : Bool :=
  match k.val with
  | 6 => lagVal s s.cinLag 5 s.cinBusy
  | 7 => lagVal s s.coutLag 6 s.coutRdy
  | 11 => dmaEss s 0 1 s.q1.length
  | 12 => dmaEss s 1 1 s.q2.length
  | 13 => dmaEss s 0 2 s.q1.length
  | 14 => dmaEss s 1 2 s.q2.length
  | _ => ess s k

/-- The read side of R42 (10 R40). -/
def r42Read (s : State) : Half := BitVec.ofFnLE fun k : Fin 16 => essSeen s k

/-- The event bits of R57 as a restricted use sees them (70 R563(a)). -/
def eventBit (s : State) (b : Fin 16) : Bool :=
  (useVal s (.event b) 1 (if s.regs[57].getLsbD b.val then 1 else 0)).getLsbD 0

/-- Check every event record of R57 (70 R560). -/
def eventCheck (s : State) : Check Unit :=
  (List.finRange 16).forM fun b => useCheck s (.event b) 1

/-! ### The read side of the registers -/

/-- The registers of the two CRC pairs (10 R47). -/
def crcRegs : List Reg := [44, 45, 46, 47]

/-- A look at the CRC pairs through R57 is a read of them (51 R468): it waits for them, and for an
instruction of a restricted class it is outside their windows (70 R560). -/
def pairUse (s : State) (u : Use) (r : Reg) : Check Unit := do
  accessOne s r
  table3Use s u r

/-- R33 is the HEC8 result (10 R32). That depends on mode bit 9, an implicit source: it is looked at once
that bit is settled. -/
def hecMode (s : State) : Bool := modeRead s 9 == .ok () && modeVal s 9

/-- A read of R33 before the second input of its HEC8 is there (70 R566); it comes before the hazard
faults of the access (60 R523(6)), and after the delivery that the access waits for. -/
def unwrittenCheck (s : State) (r : Reg) : Check Unit :=
  raiseIf (r == 33 && accessOne s 33 != .error .stall && hecMode s && s.hecPhase == .seeded)
    .unwrittenRead

/-- Check the register `r` itself, as a source of an instruction of class `u` (60 R523(6)). -/
def namedCheck (u : Use) (s : State) (r : Reg) : Check Unit := do
  if r = 36 then .error .stuck
  unwrittenCheck s r
  accessOne s r
  match r.val with
  | 33 => if hecMode s then useCheck s .hec 3
  | 42 => do
    lagCheck s s.cinLag
    lagCheck s s.coutLag
    dmaLagCheck s 0
    dmaLagCheck s 1
  | 43 => useCheck s .r43 2
  | 44 => do
    raiseIf (crcOwned s .x) .crcPairBusy
    table3Use s u 44
  | 45 => do
    raiseIf (crcOwned s .x) .crcPairBusy
    table3Use s u 45
  | 46 => do
    raiseIf (crcOwned s .y) .crcPairBusy
    table3Use s u 46
  | 47 => do
    raiseIf (crcOwned s .y) .crcPairBusy
    table3Use s u 47
  | 48 => do
    plusUse s 48
    table3Use s u 48
  | 49 => do
    plusUse s 49
    table3Use s u 49
  | 50 => do
    plusUse s 50
    table3Use s u 50
  | 51 => do
    plusUse s 51
    table3Use s u 51
  | 57 => do
    raiseIf (crcOwned s .x || crcOwned s .y) .crcPairBusy
    if u = .other then eventCheck s
  | 58 => table3Use s u 58
  | 59 => table3Use s u 59
  | 60 => useCheck s (.reg 60) 2
  | 61 => raiseIf (! s.cssq.isEmpty && s.cfg.hazardMode == .fault) .scheduledAddressEarly
  | 62 => useCheck s (.reg 62) 2
  | 63 => useCheck s (.reg 63) 2
  | _ => .ok ()

/-- Check what a read of register `r` uses beside it: the mode bit, and the registers that decide what is
read (60 R523(6); 70 R561; 10 R45; 51 R468; log 54). -/
def impliedCheck (u : Use) (s : State) (r : Reg) : Check Unit := do
  if needsMode r then accessOne s 42
  match r.val with
  | 32 => modeUse s 9
  | 33 => modeUse s 9
  | 43 => do
    modeUse s 8
    if modeVal s 8 then impliedUse s 62 2 else accessOne s 56
  | 54 => modeUse s 11
  | 55 => modeUse s 10
  | 57 => do
    impliedUse s 63 2
    crcRegs.forM (pairUse s u)
  | 61 => impliedUse s 60 2
  | _ => .ok ()

/-- Check a read of register `r` by an instruction of class `u`. -/
def readCheck (u : Use) (s : State) (r : Reg) : Check Unit := do
  namedCheck u s r
  impliedCheck u s r

/-- Check the source registers of an instruction in the order of 60 R523(6): those it names, then the
fetch's use of mode bit 4 and what the reads imply. -/
def sourceCheck (u : Use) (s : State) (srcs : List Reg) : Check Unit := do
  srcs.forM (namedCheck u s)
  fetchUse s
  srcs.forM (impliedCheck u s)

/-- The CRC pair `{hi, lo}` as a look through R57 sees it (51 R468; 70 R563(a)). -/
def pairSeen (u : Use) (s : State) (hi lo : Reg) : BitVec 32 := table3Val s u hi ++ table3Val s u lo

/-- R57 as an instruction of class `u` sees it, its event bits apart. -/
def r57Seen (u : Use) (s : State) : Half := r57Read s (pairSeen u s 45 44) (pairSeen u s 47 46)

/-- The value a read of register `r` returns to an instruction of class `u` (10 R28). -/
def readVal (u : Use) (s : State) (r : Reg) : Half :=
  match r.val with
  | 33 =>
    if modeVal s 9 then
      if s.hecPhase = .ready then
        match recOf s .hec with
        | some c => if 3 ≤ c.e then (drawByte s 0 ++ hecResult s : BitVec 16) else draw s 7
        | none => (drawByte s 0 ++ hecResult s : BitVec 16)
      else draw s 7
    else s.regs[33]
  | 42 => r42Read s
  | 43 => useVal s .r43 2 (r43Read s (modeVal s 8))
  | 44 => table3Val s u 44
  | 45 => table3Val s u 45
  | 46 => table3Val s u 46
  | 47 => table3Val s u 47
  | 48 => plusVal s 48 (table3Val s u 48)
  | 49 => plusVal s 49 (table3Val s u 49)
  | 50 => plusVal s 50 (table3Val s u 50)
  | 51 => plusVal s 51 (table3Val s u 51)
  | 52 => (s.cfg.rev ++ (0 : BitVec 3) ++ s.regs[52].extractLsb' 0 10 : BitVec 16)
  | 57 =>
    if u = .other then
      BitVec.ofFnLE fun b : Fin 16 =>
        if (recOf s (.event b)).isSome then eventBit s b else (r57Seen u s).getLsbD b.val
    else r57Seen u s
  | 58 => table3Val s u 58
  | 59 => table3Val s u 59
  | 60 => ((useVal s (.reg 60) 2 s.regs[60]).extractLsb' 8 8 ++ drawByte s 1 : BitVec 16)
  | 61 => ((draw s 2).extractLsb' 0 2 ++ s.regs[61].extractLsb' 0 14 : BitVec 16)
  | 62 => useVal s (.reg 62) 2 s.regs[62]
  | 63 => useVal s (.reg 63) 2 s.regs[63]
  | _ => s.regs[r]

/-! ### The write side of the registers -/

/-- Put a value into a register's storage. -/
def setReg (s : State) (r : Reg) (v : Half) : State := { s with regs := s.regs.set r v }

/-- Change what a key's record follows: store and record the old value (70 R562). -/
def setRec (s : State) (r : Reg) (v : Half) : State :=
  addRec (setReg s r v) (.reg r) s.regs[r] .plain

/-- The target bit of a control byte (10 R42, R60). -/
def ctlBit (v : Half) : Fin 16 := Fin.ofNat 16 (v.extractLsb' 0 4).toNat

/-- The set bit of a control byte (10 R42, R60). -/
def ctlSet (v : Half) : Bool := v.getLsbD 7

/-- A halfword with one bit changed. -/
def putBit (w : Half) (b : Nat) (on : Bool) : Half :=
  if on then w ||| (1 : Half) <<< b else w &&& ~~~ ((1 : Half) <<< b)

/-- The write side of R42: one mode bit (10 R42). The window opens also where the bit keeps its value
(70 R561, R562; log 57). -/
def writeMode (s : State) (v : Half) : State :=
  addRec { s with mode := putBit s.mode (ctlBit v).val (ctlSet v) } (.modeBit (ctlBit v))
    (if modeBit s (ctlBit v).val then 1 else 0) .plain

/-- The write side of R43: a control entry, and the options when mode bit 8 is set; only then does it
change what R43 shows (10 R45, R46; 70 R561). -/
def writeFifo (w s : State) (v : Half) : State :=
  let t := { s with fifo := s.fifo.set s.fifoWr (v.extractLsb' 0 7), fifoWr := s.fifoWr + 1,
                    opts := if modeVal w 8 then v.extractLsb' 8 6 else s.opts }
  if modeVal w 8 then addRec t .r43 (r43Read w true) .plain else t

/-- The write side of R56: in bit-swap mode R43 shows it (10 R45, R58; 70 R561). -/
def writeFmData (w s : State) (v : Half) : State :=
  if modeBit w 8 then setReg s 56 v
  else addRec (setReg s 56 v) .r43 (r43Read w false) .plain

/-- An ICSI bit that hardware holds set: the pin is high and enabled (10 R61, R60). -/
def heldSet (s : State) (b : Nat) : Bool :=
  decide (b < 4) && s.icsi.getLsbD b && s.icsiPrev.getLsbD b && s.regs[63].getLsbD (8 + b)

/-- The write side of R57: one event or ICSO bit; a byte that names a bit of [9:6] changes nothing (10
R60). -/
def writeEvent (s : State) (v : Half) : State :=
  let b := ctlBit v
  if 6 ≤ b.val ∧ b.val ≤ 9 then s
  else
    let on := ctlSet v || heldSet s b.val
    addRec { s with regs := s.regs.set 57 (putBit s.regs[57] b.val on) } (.event b)
      (if s.regs[57].getLsbD b.val then 1 else 0) .plain

/-- The CSS reset: ACF, R61 and every Scoreboard bit become open values (43 R299, log 15). -/
def cssReset (s : State) : State :=
  { s with acf := drawBit s 8, regs := s.regs.set 61 ((draw s 9) &&& 0x3FFF), sb := [] }

/-- The write side of R60: every write with CR set resets the CSS (10 R64; 43 R299). -/
def writeCss (s : State) (v : Half) : State :=
  let t := setRec s 60 (v &&& 0xFF00)
  if v.getLsbD 14 then cssReset t else t

/-- The write side of R62: a side that leaves reset mode starts afresh (50 R423). -/
def writeUtopia (s : State) (v : Half) : State :=
  let rxUp := rxSizeOf s.regs[62] == 0 && rxSizeOf v != 0
  let txUp := txSizeOf s.regs[62] == 0 && txSizeOf v != 0
  { setRec s 62 v with
      rxIdx := if rxUp then 0 else s.rxIdx
      rxbusy := if rxUp then 0 else s.rxbusy
      rxfull := if rxUp then 0 else s.rxfull
      txIdx := if txUp then 0 else s.txIdx
      txbusy := if txUp then 0 else s.txbusy
      txfull := if txUp then 0 else s.txfull }

/-- The HEC8 circuit after a second halfword: without a first one its result stays open (10 R82; log
42). -/
def hecNext : HecPhase → HecPhase
  | .idle => .idle
  | .seeded => .ready
  | .ready => .ready

/-- Write `v` through the write side of register `r`, with its side effects (10 R28).
`w` is the state the writing instruction looks at: the windows are those before it completes.
A write of R33 in HEC mode also stays in the register's cell, which is read once HEC mode is off again
(log 53), as 10 R31 states of R32. -/
def writeReg (w s : State) (r : Reg) (v : Half) : State :=
  match r.val with
  | 32 =>
    if modeVal w 9 then { setReg s 32 v with hecA := v, hecPhase := .seeded } else setReg s 32 v
  | 33 =>
    if modeVal w 9 then
      addRec { setReg s 33 v with hecB := v, hecPhase := hecNext s.hecPhase } .hec s.regs[33] .plain
    else setReg s 33 v
  | 36 => s
  | 40 => { setReg s 40 v with coutRdy := true, coutLag := some (s.coutRdy, 0) }
  | 42 => writeMode s v
  | 43 => writeFifo w s v
  | 44 => setRec s 44 v
  | 45 => setRec s 45 v
  | 46 => setRec s 46 v
  | 47 => setRec s 47 v
  | 48 => setRec s 48 (v &&& 0x0FFF)
  | 49 => setRec s 49 (v &&& 0x0FFF)
  | 50 => setRec s 50 (v &&& 0x0FFF)
  | 51 => setRec s 51 (v &&& 0x0FFF)
  | 52 => setReg s 52 (v &&& 0x03FF)
  | 53 => setReg s 53 (v &&& 0x007F)
  | 54 => { setReg s 54 v with pitInit0 := v }
  | 55 => { setReg s 55 v with pitInit1 := v }
  | 56 => writeFmData w s v
  | 57 => writeEvent s v
  | 58 => setRec s 58 (v &&& 0x0FFF)
  | 59 => setRec s 59 (v &&& 0x0FFF)
  | 60 => writeCss s v
  | 61 => s
  | 62 => writeUtopia s v
  | 63 => setRec s 63 ((s.regs[63] &&& 0xF000) ||| (v &&& 0x0FFF))
  | _ => setReg s r v

/-- A control byte has ones only in its set bit and its target (10 R42, R60). -/
def ctlOk (v : Half) : Bool := v &&& 0xFF70 == 0

/-- Check the write of R42 (10 R42, R43; 50 R423). -/
def writeModeCheck (s : State) (v : Half) : Check Unit := do
  raiseIf (! ctlOk v) .reservedFieldWrite
  raiseIf (ctlSet v && (0xF00C : Half).getLsbD (ctlBit v).val) .reservedModeBit
  raiseIf (decide ((ctlBit v).val ≤ 1) && (modeBit s (ctlBit v).val != ctlSet v) &&
    (rxSizeOf s.regs[62] != 0 || txSizeOf s.regs[62] != 0)) .utopiaConfig

/-- A UTOPIA side is out of reset mode and not idle (50 R423). -/
def rxActive (s : State) : Bool :=
  rxSizeOf s.regs[62] != 0 && (s.rxbusy != 0 || s.rxfull != 0 || s.rxCell.isSome)

/-- The same of the transmitter (50 R423). -/
def txActive (s : State) : Bool :=
  txSizeOf s.regs[62] != 0 && (s.txbusy != 0 || s.txfull != 0 || s.txCell.isSome)

/-- Check the write of R62 (50 R422, R423, R436). -/
def writeUtopiaCheck (s : State) (v : Half) : Check Unit := do
  let o := s.regs[62]
  let up := rxSizeOf v != 0 || txSizeOf v != 0
  let other := (o ^^^ v) &&& 0xFF01 != 0
  raiseIf (rxSizeOf v != 0 && txSizeOf v != 0 && ! v.getLsbD 8) .utopiaConfig
  raiseIf (s.cfg.strictReserved && up && (v.getLsbD 15 == v.getLsbD 14)) .utopiaConfig
  raiseIf (rxSizeOf o != 0 && rxSizeOf v != 0 && rxSizeOf o != rxSizeOf v) .utopiaConfig
  raiseIf (txSizeOf o != 0 && txSizeOf v != 0 && txSizeOf o != txSizeOf v) .utopiaConfig
  raiseIf (rxActive s && (rxSizeOf o != rxSizeOf v || other)) .utopiaConfig
  raiseIf (txActive s && (txSizeOf o != txSizeOf v || other)) .utopiaConfig

/-- Check the mode bit that a write of register `r` looks at (70 R561). -/
def writeUse (s : State) (r : Reg) : Check Unit :=
  match r.val with
  | 32 => modeUse s 9
  | 33 => modeUse s 9
  | 43 => modeUse s 8
  | 54 => modeUse s 11
  | 55 => modeUse s 10
  | _ => .ok ()

/-- Check the value `v` about to be written to register `r` (10 R29, R65; 52 R495; 44 R335). Ones in
R53[15:6] fault as 93 row 10 says (log 45). -/
def writeCheck (s : State) (r : Reg) (v : Half) : Check Unit :=
  match r.val with
  | 32 => modeUse s 9
  | 33 => modeUse s 9
  | 40 => raiseIf s.cinBusy .commCollision
  | 41 => raiseIf s.cinBusy .commCollision
  | 42 => writeModeCheck s v
  | 43 => do
    modeUse s 8
    raiseIf (v.getLsbD 7) .reservedFieldWrite
    raiseIf (if modeVal s 8 then v &&& 0xC000 != 0 else v &&& 0xFF00 != 0) .reservedFieldWrite
  | 44 => raiseIf (crcOwned s .x) .crcPairBusy
  | 45 => raiseIf (crcOwned s .x) .crcPairBusy
  | 46 => raiseIf (crcOwned s .y) .crcPairBusy
  | 47 => raiseIf (crcOwned s .y) .crcPairBusy
  | 53 => raiseIf (v &&& 0xFFC0 != 0) .reservedFieldWrite
  | 54 => modeUse s 11
  | 55 => modeUse s 10
  | 57 => raiseIf (! ctlOk v) .reservedFieldWrite
  | 60 => do
    raiseIf (v &&& 0x00FF != 0) .reservedFieldWrite
    raiseIf (! s.cssq.isEmpty) .cssConfigBusy
  | 61 => .error (.fault .writeReadOnly)
  | 62 => writeUtopiaCheck s v
  | _ => .ok ()

/-- Check that `r` may be a destination (60 R523(5), (6)): it has a write side, it is not pending,
and neither rla rule forbids writing it (44 R327; 70 R565(b)). -/
def destCheck (s : State) (r : Reg) : Check Unit := do
  raiseIf (r == 61) .writeReadOnly
  accessCheck s r
  raiseIf ((plusOf s r).isSome) .rlaIncrementHazard
  raiseIf (s.rlaTrap == some r) .loadHardwareRegisterHazard

/-- The side effect of the source operands: a read of R40 clears CIN_BUSY (52 R491). -/
def readEffects (s : State) (srcs : List Reg) : State :=
  if srcs.contains 40 then { s with cinBusy := false, cinLag := some (s.cinBusy, 0) } else s

/-! ### Completing an instruction -/

/-- What the completion of an instruction needs to know of it beside its effect. -/
structure Done where
  /-- Every register the instruction accessed, its implied operands among them (45 R364). -/
  acc : List Reg
  /-- It is an LD or LDD whose destination is a hardware register (70 R562, R565). -/
  hwLoad : Bool := false
  /-- The rla register it used (70 R565(b)). -/
  rla : Option Reg := none
deriving DecidableEq, Repr

/-- One more instruction in a record's window; past it the record is dropped (70 R562). -/
def ageRec (hwLoad : Bool) (r : Rec) : Option Rec :=
  let n : Rec := if hwLoad then { r with x := r.x + 1 } else { r with e := r.e + 1 }
  if 3 ≤ n.e then none else some n

/-- One more instruction since the SWAN's access to R40 (52 R494). -/
def ageLag (l : Option (Bool × Nat)) : Option (Bool × Nat) :=
  match l with
  | some (old, a) => if 5 ≤ a then none else some (old, a + 1)
  | none => none

/-- The registers an instruction accesses by reading `r`: `r`, and those its read implies (70 R561; 10
R45; 51 R468; 45 R364). -/
def readRegs (s : State) (r : Reg) : List Reg :=
  match r.val with
  | 32 => [r, 42]
  | 33 => [r, 42]
  | 43 => [r, 42, if modeVal s 8 then 62 else 56]
  | 54 => [r, 42]
  | 55 => [r, 42]
  | 57 => r :: 63 :: crcRegs
  | 61 => [r, 60]
  | _ => [r]

/-- The registers an instruction accesses by writing `r` (70 R561; 45 R364). -/
def writeRegs (r : Reg) : List Reg := if needsMode r then [r, 42] else [r]

/-- The registers an instruction accesses that reads `srcs` and writes `ds` (45 R364). -/
def accessed (s : State) (srcs ds : List Reg) : List Reg :=
  srcs.flatMap (readRegs s) ++ ds.flatMap writeRegs

/-- One more instruction after an access to the first LMFM destination (45 R364(b)). -/
def ageJob (acc : List Reg) (j : LmfmJob) : LmfmJob :=
  { j with acc :=
      match j.acc with
      | some a => some (a + 1)
      | none => if acc.contains j.rd then some 0 else none }

/-- Apply the increments whose window ends (44 R327). -/
def ripen (s : State) : List PlusInc → State
  | [] => s
  | p :: ps => if 1 ≤ p.age then ripen (setReg s p.r p.new) ps else ripen s ps

/-- One executed instruction as the windows count it (70 R562; 44 R327; 52 R494; 43 R296). -/
def tick (s : State) (d : Done) : State :=
  let t := ripen s s.plus
  { t with
      recs := s.recs.filterMap (ageRec d.hwLoad)
      fmJobs := s.fmJobs.map (ageJob d.acc)
      cinLag := ageLag s.cinLag
      coutLag := ageLag s.coutLag
      plus := (s.plus.filter fun p => p.age = 0).map fun p => { p with age := 1 }
      rlaPrev := d.rla
      rlaTrap := if d.hwLoad then s.rlaPrev else none
      popcShadow := none
      segBranch := s.segBranch && s.ctag == .bslot
      popfAge := s.popfAge.bind fun a => if 2 ≤ a then none else some (a + 1)
      dmaLag := none
      turn := .helpers
      draws := s.draws + 1 }

/-- Advance to the head of the flow queue, or to the next word (10 R87(4)). -/
def advance (s : State) (q : List (BitVec 17 × FlowTag)) : State :=
  match q with
  | [] => { s with pc := s.pc + 1, ctag := .seq, fq := [] }
  | (a, t) :: r => { s with pc := a, ctag := t, fq := r }

/-- The offset of a word address in its segment (10 R23). -/
def offset (a : BitVec 17) : Nat := (a.extractLsb' 0 12).toNat

/-- Check that `k` words past `a` are in the segment of `a` (10 R24(e)). -/
def inSegment (a : BitVec 17) (k : Nat) : Check Unit :=
  raiseIf (decide (0xFFF < offset a + k)) .segmentOverrun

/-- The segment of a word address (10 R23). -/
def segment (a : BitVec 17) : BitVec 5 := a.extractLsb' 12 5

/-- R53[4:0] differs from the segment of the pc (10 R24(d)); a value still owed to R53 is not waited for
(log 25). -/
def segmentOff (s : State) : Bool := s.regs[53].extractLsb' 0 5 != segment s.pc

/-- Check the sequential advance (10 R24(e)): to the next word, or along the words an ALU branch has
gathered, which stay in its segment (40 R186; log 48). Only after a committed slot of a Branch may the
next word be in another segment. -/
def advanceCheck (s : State) (q : List (BitVec 17 × FlowTag)) : Check Unit :=
  match q with
  | [] => inSegment s.pc 1
  | (a, _) :: _ => raiseIf (s.ctag != .bslot && segment a != segment s.pc) .segmentOverrun

end Sys2Proof.Machine
end

