-- ==== Sys2Proof/Machine/Operands.lean ====
section
/-!
DEFINITION. The operand forms: the modulo merge, the local address of the internal RAM, the Fast
Memory address and the Update Memory address.
-/
namespace Sys2Proof.Machine

/-! ### Modulo arithmetic -/

/-- The width a MODx code selects (30 R153). -/
def modWidth (modx : BitVec 4) : Nat := modx.toNat + 1

/-- The low `k` bits as a mask (40 R182). -/
def lowMask (k : Nat) : Half := BitVec.ofNat 16 (2 ^ k - 1)

/-- The modulo merge `{a[15:k], alu[k-1:0]}` (40 R182). -/
def modMerge (k : Nat) (a alu : Half) : Half := (a &&& ~~~ lowMask k) ||| (alu &&& lowMask k)

/-! ### Shifts (41 R230) -/

/-- `shl`: zero fill on the right. -/
def shl (x : Half) (n : Nat) : Half := x <<< n

/-- `shr`: zero fill on the left. -/
def shr (x : Half) (n : Nat) : Half := x >>> n

/-- `sar`: copies of bit 15 on the left. -/
def sar (x : Half) (n : Nat) : Half := x.sshiftRight n

/-- `rotl`: rotation to the left by less than 16. -/
def rotl (x : Half) (n : Nat) : Half := x <<< n ||| x >>> (16 - n)

/-- The signed shift of SFT, SFTLI and SFTRI by a 5-bit two's-complement amount (30 R171). -/
def sft (x : Half) (a : BitVec 5) : Half :=
  if a.getLsbD 4 then shr x (32 - a.toNat) else shl x a.toNat

/-- The index of the most significant set bit, or 0x8000 when there is none (40 R205). -/
def findLastSet (x : Half) : Half :=
  match (List.range 16).reverse.find? fun i => x.getLsbD i with
  | some i => BitVec.ofNat 16 i
  | none => 0x8000

/-! ### The local address -/

/-- The constant of an `rla` field, or 0 for a register (30 R152; 10 R49). -/
def rlaConst : Rla → Half
  | .ga => 0x0400
  | .gb => 0x0420
  | .gc => 0x0440
  | .gd => 0x0460
  | _ => 0

/-- The registers an `rla` operand names. -/
def rlaRegs (x : Rla) : List Reg := (rlaReg x).toList

/-- The content an `rla` operand supplies (46 R391; 44 R323). -/
def rlaVal (u : Use) (s : State) (x : Rla) : Half :=
  match rlaReg x with
  | some r => readVal u s r
  | none => rlaConst x

/-- The target address: the index is exclusive-ORed and bit 0 forced to zero (46 R394). -/
def target (l : Half) (idx : BitVec 5) : Half :=
  (l ^^^ (idx.zeroExtend 16 <<< 1)) &&& 0xFFFE

/-- A local address selects the Scoreboard (20 R110, R111). -/
def inScoreboard (t : Half) : Bool := t.getLsbD 11

/-- A gather address outside its window (20 R110). -/
def gatherBad (t : Half) : Bool :=
  ! t.getLsbD 11 && t.getLsbD 10 && (t &&& 0x0380 != 0)

/-- The physical Cell Buffer byte of a local address (20 R110). -/
def cbPhys (t : Half) : Nat :=
  if t.getLsbD 10 then
    (t.extractLsb' 3 4).toNat * 64 + 56 + (t.extractLsb' 0 3).toNat
  else (t.extractLsb' 0 10).toNat

/-- The byte exchange of the Swap field (46 R393). -/
def bswap (h : Half) : Half := (h.extractLsb' 0 8 ++ h.extractLsb' 8 8 : BitVec 16)

/-- The data path of a Swap field's bit 0 (46 R393). -/
def swapb (on : Bool) (h : Half) : Half := if on then bswap h else h

/-! ### The Fast Memory address -/

/-- The populated bytes of Fast Memory (20 R102). -/
def fmBytes : FmSize → Nat
  | .k128 => 0x20000
  | .k256 => 0x40000
  | .k512 => 0x80000
  | .m1 => 0x100000

/-- The first byte address past the reachable Fast Memory: Mode 0 reaches 512 KBytes, and no mode
reaches past what is populated (20 R102; log 44). -/
def fmLimit (s : State) (mode1 : Bool) : Nat :=
  if mode1 then fmBytes s.cfg.fmSize else Nat.min (fmBytes s.cfg.fmSize) 0x80000

/-- The byte address of rsa and rsb (45 R361). -/
def fmAddr (a b : Half) : BitVec 20 := (a.extractLsb' 0 4 ++ b : BitVec 20)

/-- The mask of the Z option, for the five destinations of its table (45 R362). -/
def zMask (rd : Reg) : Option (BitVec 20) :=
  match rd.val with
  | 16 => some 0xFFFE0
  | 24 => some 0xFFFF0
  | 28 => some 0xFFFF8
  | 30 => some 0xFFFFC
  | 31 => some 0xFFFFE
  | _ => none

/-- The low four bits of a register number (45 R368, R369). -/
def reg4 (r : Reg) : BitVec 4 := BitVec.ofNat 4 r.val

/-- The Update Memory address of a destination register (45 R369). -/
def umAddr (s : State) (rd : Reg) : BitVec 20 :=
  (s.linkAdrs.extractLsb' 4 15 ++ (s.linkAdrs.extractLsb' 0 4 ||| (reg4 rd &&& s.linkMask)) ++
    (0 : BitVec 1) : BitVec 20)

/-- The address copied into a CRC holding register: `{lfm_linked_adrs[19:1], 0}` (45 R368). -/
def linkAddr (s : State) : BitVec 20 := (s.linkAdrs ++ (0 : BitVec 1) : BitVec 20)

/-- A stored word is no longer the one the cache may hold (20 R125(c)). -/
def touchWord (s : State) (w : Nat) : State :=
  if (Memory.read s.icWords w).isSome then { s with icWords := Memory.write s.icWords w true }
  else s

/-- Post a halfword write (45 R360; 20 R120). -/
def postWrite (s : State) (addr : Nat) (v : Half) : State :=
  touchWord { s with wbuf := s.wbuf ++ [(addr, v)] } (addr / 4)

/-- The newest buffered write of a Fast Memory halfword: an older one of the same halfword is found by no
read (20 R120; log 41). -/
def buffered (s : State) (addr : Nat) : Option Half :=
  (s.wbuf.reverse.find? fun e => e.1 = addr).map fun e => e.2

/-- A Fast Memory halfword as a reader gets it: with a write buffered it is a race, or the newest
write under `fm_raw_forwarding`; where the old content was never written, the old value is open (20
R120; 45 R360; log 41). -/
def fmReadHalf (s : State) (addr site : Nat) : Option Half :=
  match buffered s addr with
  | none => readHalf s.fm addr
  | some v =>
    if s.cfg.fmRawForwarding then some v
    else some (if drawBit s site then v else (readHalf s.fm addr).getD (draw s (site + 1)))

end Sys2Proof.Machine
end

