-- ==== Sys2Proof/Machine/Flags.lean ====
section
/-!
DEFINITION. The flags and the branch conditions: OVF, CMPSTATE and the `abc` field.
-/
namespace Sys2Proof.Machine

/-- The Overflow flag of an addition (40 R188). -/
def ovfAdd (a b alu : Half) : Bool := a.msb == b.msb && alu.msb != a.msb

/-- The Overflow flag of a subtraction (40 R188). -/
def ovfSub (a b alu : Half) : Bool := a.msb != b.msb && alu.msb == b.msb

/-- The unsigned relation of `a` to `b` (40 R184, R201). -/
def compare3 (a b : Half) : CmpState :=
  if b.toNat < a.toNat then .gt else if a.toNat < b.toNat then .lt else .eq

/-- The combination of a compare with the previous one (40 R203). -/
def combine (prev now : CmpState) : CmpState := if prev = .eq then now else prev

/-- The arithmetic-class condition on the result `res` under width `k` (40 R183). -/
def abcHolds (c : Abc) (k : Nat) (res : Half) (ovf : Bool) : Bool :=
  let n := res.msb
  let z := res &&& lowMask k == 0
  match c with
  | .none => false
  | .bgez => ! n
  | .bz => z
  | .blez => n || z
  | .blz => n
  | .bnz => ! z
  | .bno => ! ovf

/-- The condition tests the sign, which is open under modulo (40 R183). -/
def abcSign (c : Abc) : Bool :=
  match c with
  | .bgez => true
  | .blez => true
  | .blz => true
  | _ => false

/-- The compare-class condition on a relation (40 R184). -/
def cmpHolds (c : CmpCond) (r : CmpState) : Bool :=
  match c with
  | .bagb => r == .gt
  | .bageb => r == .gt || r == .eq
  | .baeb => r == .eq
  | .baleb => r == .lt || r == .eq
  | .balb => r == .lt
  | .baneb => r == .gt || r == .lt

/-- The compare condition a code names under `abc_cmp_map`; none for code 000 (30 R155). -/
def cmpCond (s : State) (cc : BitVec 3) : Option CmpCond :=
  if cc = 0 then none else s.cfg.abcCmpMap[cc.toNat]

/-- Check the compare-class code (30 R155) and the width (40 R184). -/
def cmpCodeCheck (s : State) (cc : BitVec 3) (k : Nat) : Check Unit := do
  raiseIf (cc != 0 && (cmpCond s cc).isNone) .reservedEncoding
  raiseIf (cc != 0 && k != 16) .moduloSignBranch

/-- Check the arithmetic-class code against the width (40 R183). -/
def abcCheck (c : Abc) (k : Nat) : Check Unit := raiseIf (abcSign c && k != 16) .moduloSignBranch

end Sys2Proof.Machine
end

