-- ==== Sys2Proof/Machine/Flow.lean ====
section
/-!
DEFINITION. Control flow: the cache history of fetched words, decoding under the parameters, the flow
queue of the ALU branch and of the Branch class, discarded and nullified words, and what may stand in
a slot.
-/
namespace Sys2Proof.Machine

/-! ### The history of the instruction cache (20 R125) -/

/-- The cache is bypassed: R53[5], NC (20 R125); a value still owed to R53 is not waited for (log 25). -/
def noCache (s : State) : Bool := s.regs[53].getLsbD 5

/-- The cache tag of a word address (10 R70). -/
def cacheTag (w : BitVec 17) : Nat := (w.extractLsb' 11 4).toNat

/-- The cache page of a word address (20 R125). -/
def cachePage (w : BitVec 17) : Nat := (w.extractLsb' 11 6).toNat

/-- A fetch of the word at `w` through the cache could find another word (20 R125). -/
def cacheStale (s : State) (w : BitVec 17) : Bool :=
  cacheTag w == 0xF ||
  (match Memory.read s.icPages (cacheTag w) with
    | some p => p != cachePage w
    | none => false) ||
  Memory.read s.icWords w.toNat == some true

/-- Check a fetch of the word at `w` against the cache (20 R125). -/
def cacheCheck (s : State) (w : BitVec 17) : Check Unit :=
  raiseIf (! noCache s && cacheStale s w) .iCacheStale

/-- A write to the word at `w` is still buffered (20 R120). -/
def fetchRace (s : State) (w : BitVec 17) : Bool := s.wbuf.any fun e => e.1 / 4 == w.toNat

/-- What the cache remembers of a fetch of the word at `w`; a word fetched while a write to it is
buffered may be the old one (20 R125). Under `fm_raw_forwarding` the fetch gets the newest buffered
write, so that a write posted before it is not one since, whenever it drains (log 18). -/
def recordFetch (s : State) (w : BitVec 17) : State :=
  { s with
    icPages := if noCache s then s.icPages else Memory.write s.icPages (cacheTag w) (cachePage w)
    icWords := if noCache s then s.icWords else
      Memory.write s.icWords w.toNat (fetchRace s w && ! s.cfg.fmRawForwarding) }

/-! ### Decoding under the parameters -/

/-- The compare-class code of an instruction, 000 where it has none (30 R155). -/
def compareCode (i : Instr) : BitVec 3 :=
  match i with
  | .max _ _ c _ _ _ _ => c
  | .min _ _ c _ _ _ _ => c
  | .maxi _ _ c _ _ => c
  | .mini _ _ c _ _ => c
  | .cmp c _ _ _ => c
  | .cmpp c _ _ _ => c
  | .cmpi c _ _ => c
  | .cmppi c _ _ => c
  | .add _ _ _ _ _ _ _ => 0
  | .sub _ _ _ _ _ _ _ => 0
  | .and _ _ _ _ _ _ _ => 0
  | .or _ _ _ _ _ _ _ => 0
  | .xor _ _ _ _ _ _ _ => 0
  | .addi _ _ _ _ _ _ => 0
  | .subi _ _ _ _ _ _ => 0
  | .andi _ _ _ _ _ => 0
  | .ori _ _ _ _ _ => 0
  | .xori _ _ _ _ _ => 0
  | .fls _ _ _ _ _ => 0
  | .limd _ _ _ => 0
  | .sft _ _ _ _ _ _ => 0
  | .sfta _ _ _ _ _ _ => 0
  | .sftc _ _ _ _ _ _ _ => 0
  | .sftai _ _ _ _ _ _ => 0
  | .sftci _ _ _ _ _ _ _ => 0
  | .sftli _ _ _ _ _ _ _ => 0
  | .sftri _ _ _ _ _ _ _ => 0
  | .bi _ _ _ _ _ => 0
  | .bil _ _ _ _ _ => 0
  | .br _ _ _ _ => 0
  | .brl _ _ _ _ => 0
  | .bf _ _ _ _ => 0
  | .bfl _ _ _ _ => 0
  | .popc _ _ => 0
  | .popf _ _ => 0
  | .pushc _ _ => 0
  | .pushf _ _ => 0
  | .dma1r _ _ _ _ _ _ _ _ _ => 0
  | .dma1w _ _ _ _ _ _ _ _ _ => 0
  | .dma2r _ _ _ _ _ _ => 0
  | .dma2w _ _ _ _ _ _ => 0
  | .dma1rPlus _ _ _ _ _ _ _ _ _ => 0
  | .dma1wPlus _ _ _ _ _ _ _ _ _ => 0
  | .dma2rPlus _ _ _ _ _ _ => 0
  | .dma2wPlus _ _ _ _ _ _ => 0
  | .lmfm _ _ _ _ _ _ => 0
  | .shfm _ _ => 0
  | .srh _ _ _ _ _ => 0
  | .ld _ _ _ _ => 0
  | .ldd _ _ _ _ => 0
  | .st _ _ _ _ => 0
  | .std _ _ _ _ _ => 0
  | .nop => 0
  | .mv _ _ => 0
  | .tset _ _ => 0
  | .tclr _ _ => 0

/-- Decode a word under the parameters and the mode bit as the instruction sees it; a compare-class
code that `abc_cmp_map` leaves without a condition is reserved (30 R155, R162, R169). -/
def decodeIn (s : State) (w : Word) : Except DecodeError Instr := do
  let i ← decode s.cfg.strictReserved (modeVal s 5) w
  if compareCode i != 0 && (cmpCond s (compareCode i)).isNone then .error .reservedEncoding
  else .ok i

/-! ### Discarded and nullified words -/

/-- The registers an instruction's source fields name (00 R11; 52 R491). -/
def sources (i : Instr) : List Reg :=
  match i with
  | .add _ _ _ a _ _ b => [a, b.castLE (by decide)]
  | .sub _ _ _ a _ _ b => [a, b.castLE (by decide)]
  | .and _ _ _ a _ _ b => [a, b.castLE (by decide)]
  | .or _ _ _ a _ _ b => [a, b.castLE (by decide)]
  | .xor _ _ _ a _ _ b => [a, b.castLE (by decide)]
  | .max _ _ _ a _ _ b => [a, b.castLE (by decide)]
  | .min _ _ _ a _ _ b => [a, b.castLE (by decide)]
  | .addi _ _ _ a _ _ => [a]
  | .subi _ _ _ a _ _ => [a]
  | .andi _ _ _ a _ => [a]
  | .ori _ _ _ a _ => [a]
  | .xori _ _ _ a _ => [a]
  | .maxi _ _ _ a _ => [a]
  | .mini _ _ _ a _ => [a]
  | .cmp _ a _ b => [a, b.castLE (by decide)]
  | .cmpp _ a _ b => [a, b.castLE (by decide)]
  | .cmpi _ a _ => [a]
  | .cmppi _ a _ => [a]
  | .fls _ _ _ a _ => [a]
  | .limd _ _ _ => []
  | .sft _ _ _ a _ b => [a, b.castLE (by decide)]
  | .sfta _ _ _ a _ b => [a, b.castLE (by decide)]
  | .sftc _ _ _ a _ _ b => [a, b.castLE (by decide)]
  | .sftai _ _ _ a _ _ => [a]
  | .sftci _ _ _ a _ _ _ => [a]
  | .sftli _ _ _ a _ _ _ => [a]
  | .sftri _ _ _ a _ _ _ => [a]
  | .bi _ _ _ _ _ => []
  | .bil _ _ _ _ _ => []
  | .br _ _ _ _ => [59]
  | .brl _ _ _ _ => [59]
  | .bf _ _ _ _ => [58]
  | .bfl _ _ _ _ => [58]
  | .popc _ b => [b.castLE (by decide)]
  | .popf _ b => [b.castLE (by decide)]
  | .pushc a b => [a, b.castLE (by decide)]
  | .pushf _ b => [b.castLE (by decide)]
  | .dma1r _ _ a _ _ _ _ _ b => [a, b.castLE (by decide)]
  | .dma1w _ _ a _ _ _ _ _ b => [a, b.castLE (by decide)]
  | .dma2r _ _ a _ _ b => [a, b.castLE (by decide)]
  | .dma2w _ _ a _ _ b => [a, b.castLE (by decide)]
  | .dma1rPlus _ _ a _ _ _ _ _ b => [a, b.castLE (by decide)]
  | .dma1wPlus _ _ a _ _ _ _ _ b => [a, b.castLE (by decide)]
  | .dma2rPlus _ _ a _ _ b => [a, b.castLE (by decide)]
  | .dma2wPlus _ _ a _ _ b => [a, b.castLE (by decide)]
  | .lmfm _ _ _ a _ b => [a, b.castLE (by decide)]
  | .shfm a b => [a, b.castLE (by decide)]
  | .srh adr _ a _ b => if adr.getLsbD 1 then [] else [a, b.castLE (by decide)]
  | .ld _ _ _ _ => []
  | .ldd _ _ _ _ => []
  | .st _ _ a _ => [a]
  | .std _ _ a _ b => [a, b.castLE (by decide)]
  | .nop => []
  | .mv _ a => [a]
  | .tset a _ => [a]
  | .tclr a _ => [a]

/-- A word decodes to an instruction that names R40 as a source (52 R491; 40 R185). -/
def namesComm (s : State) (x : Word) : Bool :=
  match decodeIn s x with
  | .ok i => (sources i).contains 40
  | .error _ => false

/-- What a read of a Fast Memory halfword may give: the newest buffered write, and what memory holds
unless that write is forwarded (20 R120). -/
def halfChoices (s : State) (addr : Nat) : List Half :=
  match buffered s addr with
  | none => (readHalf s.fm addr).toList
  | some v => if s.cfg.fmRawForwarding then [v] else v :: (readHalf s.fm addr).toList

/-- The word at `w`, as a fetch may find it, names R40 as a source (40 R185; log 23). -/
def readsComm (s : State) (w : BitVec 17) : Bool :=
  (halfChoices s (4 * w.toNat)).any fun hi =>
    (halfChoices s (4 * w.toNat + 2)).any fun lo => namesComm s (hi ++ lo : BitVec 32)

/-- The word of the committed slot that a Branch instruction at the pc fetches and nullifies; a
halfword nobody has written is open (42 R262; log 23). -/
def nullifiedWord (s : State) : Word :=
  let a := 4 * (s.pc + 1).toNat
  ((fmReadHalf s a 44).getD (draw s 46) ++ (fmReadHalf s (a + 2) 48).getD (draw s 50) : BitVec 32)

/-! ### The ALU branch -/

/-- What follows N+3 after a not-taken Always Execute branch (40 R186). -/
def aeResume (s : State) : List (BitVec 17 × FlowTag) :=
  match s.cfg.aeFallthrough with
  | .reexecute => []
  | .skip => [(s.pc + 6, .seq)]
  | .unset => if drawBit s 10 then [] else [(s.pc + 6, .seq)]

/-- The flow queue an ALU branch sets (40 R185, R186). -/
def aluQueue (s : State) (taken ae : Bool) : List (BitVec 17 × FlowTag) :=
  match taken, ae with
  | true, false => [(s.pc + 1, .aslotT), (s.pc + 4, .seq)]
  | false, false => [(s.pc + 1, .aslotNt)]
  | true, true => [(s.pc + 1, .aslotT), (s.pc + 4, .aeT), (s.pc + 5, .aeT)]
  | false, true =>
    [(s.pc + 1, .aslotT), (s.pc + 4, .aeNt), (s.pc + 5, .aeNt), (s.pc + 2, .seq),
      (s.pc + 3, .seq)] ++ aeResume s

/-- Check an ALU branch: its target N+4 is in the segment, and it discards no read of R40 (40 R185).
Whether N+5 and N+6 are in the segment is checked when they are reached (log 48). A discarded N+5 past
the end of the segment is the first word of the next one (log 49), and the two discarded words are
neither checked against the cache history nor recorded in it (log 52). -/
def aluFlowCheck (s : State) (taken ae : Bool) : Check Unit := do
  inSegment s.pc 4
  raiseIf (! taken && ! ae && (readsComm s (s.pc + 4) || readsComm s (s.pc + 5)))
    .discardedCommRead

/-! ### The Branch class -/

/-- The flow queue of a Branch instruction with target `t` (42 R262). -/
def branchQueue (s : State) (uncond taken c : Bool) (t : BitVec 17) :
    List (BitVec 17 × FlowTag) :=
  if taken then
    if uncond && c then [(t, .seq)] else [(s.pc + 1, .bslot), (t, .seq)]
  else if c then [(s.pc + 2, .seq)]
  else [(s.pc + 1, .bslot)]

/-- The committed slot is nullified (42 R262). -/
def nullified (uncond taken c : Bool) : Bool := c && (uncond || ! taken)

/-- Check the sequential addresses a Branch instruction queues (10 R24(e)); a nullified N+1 is not one
of them (log 49). -/
def branchFlowCheck (s : State) (uncond taken c : Bool) : Check Unit :=
  if nullified uncond taken c then
    if taken then .ok () else inSegment s.pc 2
  else inSegment s.pc 1

/-- Check the fetch of the word a Branch instruction nullifies (42 R262; 20 R125). -/
def nullifyCheck (s : State) (uncond taken c : Bool) : Check Unit :=
  if nullified uncond taken c then cacheCheck s (s.pc + 1) else .ok ()

/-- A nullified word is fetched, and when it names R40 as a source it clears CIN_BUSY, the SWAN's last
access to R40 from then on (42 R262; 52 R491; log 50). -/
def nullifyEffect (w s : State) : State :=
  let reads := namesComm w (nullifiedWord w)
  let f := recordFetch w (w.pc + 1)
  { s with
    icPages := f.icPages
    icWords := f.icWords
    cinBusy := if reads then false else s.cinBusy
    cinLag := if reads then some (w.cinBusy, 0) else s.cinLag }

/-! ### What may stand in a slot (10 R87) -/

/-- The classes of the table of 10 R87. -/
inductive FlowClass where
  | aluBranch | condBranch | uncondBranch | plain
deriving DecidableEq, Repr

/-- An ALU instruction by its arithmetic-class condition. -/
def abcClass (c : Abc) : FlowClass := if c = .none then .plain else .aluBranch

/-- An ALU instruction by its compare-class code. -/
def ccClass (cc : BitVec 3) : FlowClass := if cc = 0 then .plain else .aluBranch

/-- A Branch instruction by its ESS number (42 R261). -/
def essClass (e : Fin 16) : FlowClass := if e = 15 then .uncondBranch else .condBranch

/-- The flow class of an instruction (10 R87). -/
def flowClass (i : Instr) : FlowClass :=
  match i with
  | .add _ _ a _ _ _ _ => abcClass a
  | .sub _ _ a _ _ _ _ => abcClass a
  | .and _ _ a _ _ _ _ => abcClass a
  | .or _ _ a _ _ _ _ => abcClass a
  | .xor _ _ a _ _ _ _ => abcClass a
  | .max _ _ c _ _ _ _ => ccClass c
  | .min _ _ c _ _ _ _ => ccClass c
  | .addi _ _ a _ _ _ => abcClass a
  | .subi _ _ a _ _ _ => abcClass a
  | .andi _ _ a _ _ => abcClass a
  | .ori _ _ a _ _ => abcClass a
  | .xori _ _ a _ _ => abcClass a
  | .maxi _ _ c _ _ => ccClass c
  | .mini _ _ c _ _ => ccClass c
  | .cmp c _ _ _ => ccClass c
  | .cmpp c _ _ _ => ccClass c
  | .cmpi c _ _ => ccClass c
  | .cmppi c _ _ => ccClass c
  | .fls _ _ a _ _ => abcClass a
  | .limd _ _ _ => .plain
  | .sft _ _ a _ _ _ => abcClass a
  | .sfta _ _ a _ _ _ => abcClass a
  | .sftc _ _ a _ _ _ _ => abcClass a
  | .sftai _ _ a _ _ _ => abcClass a
  | .sftci _ _ a _ _ _ _ => abcClass a
  | .sftli _ _ a _ _ _ _ => abcClass a
  | .sftri _ _ a _ _ _ _ => abcClass a
  | .bi e _ _ _ _ => essClass e
  | .bil e _ _ _ _ => essClass e
  | .br e _ _ _ => essClass e
  | .brl e _ _ _ => essClass e
  | .bf e _ _ _ => essClass e
  | .bfl e _ _ _ => essClass e
  | .tset _ _ => .aluBranch
  | .tclr _ _ => .aluBranch
  | .popc _ _ => .plain
  | .popf _ _ => .plain
  | .pushc _ _ => .plain
  | .pushf _ _ => .plain
  | .dma1r _ _ _ _ _ _ _ _ _ => .plain
  | .dma1w _ _ _ _ _ _ _ _ _ => .plain
  | .dma2r _ _ _ _ _ _ => .plain
  | .dma2w _ _ _ _ _ _ => .plain
  | .dma1rPlus _ _ _ _ _ _ _ _ _ => .plain
  | .dma1wPlus _ _ _ _ _ _ _ _ _ => .plain
  | .dma2rPlus _ _ _ _ _ _ => .plain
  | .dma2wPlus _ _ _ _ _ _ => .plain
  | .lmfm _ _ _ _ _ _ => .plain
  | .shfm _ _ => .plain
  | .srh _ _ _ _ _ => .plain
  | .ld _ _ _ _ => .plain
  | .ldd _ _ _ _ => .plain
  | .st _ _ _ _ => .plain
  | .std _ _ _ _ _ => .plain
  | .nop => .plain
  | .mv _ _ => .plain

/-- The table of 10 R87: what an instruction executed under a tag may be. -/
def slotCheck (tag : FlowTag) (c : FlowClass) : Option Fault :=
  match tag, c with
  | .seq, _ => none
  | _, .plain => none
  | _, .aluBranch => some .slotRestriction
  | _, .condBranch => some .slotRestriction
  | .aslotNt, .uncondBranch => none
  | .aeT, .uncondBranch => none
  | .aslotT, .uncondBranch => some .nestedBranch
  | .aeNt, .uncondBranch => some .nestedBranch
  | .bslot, .uncondBranch => some .slotRestriction

end Sys2Proof.Machine
end

