-- ==== Sys2Proof/Machine/Alu.lean ====
section
/-!
DEFINITION. The ALU instructions other than the shifts (40_alu; 41 R238 to R245).
-/
namespace Sys2Proof.Machine

/-- A software register as a register number (10 R21). -/
def sw (r : SReg) : Reg := r.castLE (by decide)

/-- What an ALU instruction does, once its operands have given their values (40 R180). -/
structure AluOp where
  /-- The faults of the instruction's own fields. -/
  pre : Check Unit
  srcs : List Reg
  rd : Option Reg
  um : Bool
  res : Half
  /-- The new Overflow flag, if it is written. -/
  ovf : Option Bool := none
  /-- The new CMPSTATE, if it is written. -/
  cmp : Option CmpState := none
  /-- The faults of the operands' values. -/
  value : Check Unit := .ok ()
  /-- The condition and AE of an ALU branch; none when abc is 000. -/
  branch : Option (Bool × Bool) := none

/-- Check the Update Memory write-back (40 R187; 45 R369). -/
def umCheck (s : State) (rd : Reg) : Check Unit := do
  raiseIf (decide (fmLimit s (modeVal s 4) ≤ (umAddr s rd).toNat)) .fmOutOfRange
  stallIf (decide (4 ≤ s.wbuf.length))

/-- Check the flow of an ALU instruction (40 R185, R186; 10 R24). -/
def aluBranchCheck (s : State) (b : Option (Bool × Bool)) : Check Unit :=
  match b with
  | some (taken, ae) => aluFlowCheck s taken ae
  | none => advanceCheck s s.fq

/-- The checks of the destination register itself (40 R189; 60 R523(6)). -/
def aluDestCheck (s : State) (rd : Option Reg) : Check Unit :=
  match rd with
  | some r => do
    destCheck s r
    writeUse s r
  | none => .ok ()

/-- The check of the value a destination register takes (40 R189; 60 R523(7)). It comes before the effect
of the sources: CIN_BUSY counts as it was before a read of R40 by this instruction (40 R190; log 56). -/
def aluResultCheck (s : State) (rd : Option Reg) (res : Half) : Check Unit :=
  match rd with
  | some r => writeCheck s r res
  | none => .ok ()

/-- Everything an ALU instruction checks before it changes any state (40 R190; 60 R523). -/
def aluCheck (s : State) (o : AluOp) : Check Unit := do
  o.pre
  raiseIf (o.rd == some 61) .writeReadOnly
  sourceCheck .alu s o.srcs
  if o.um then modeRead s 4
  aluDestCheck s o.rd
  o.value
  aluResultCheck s o.rd o.res
  aluBranchCheck s o.branch
  match o.um, o.rd with
  | true, some r => umCheck s r
  | _, _ => .ok ()

/-- The flow queue after an ALU instruction (40 R185, R186). -/
def aluNextQueue (s : State) (b : Option (Bool × Bool)) : List (BitVec 17 × FlowTag) :=
  match b with
  | some (taken, ae) => aluQueue s taken ae
  | none => s.fq

/-- The destination write and the Update Memory write-back (40 R187, R189). -/
def aluWrite (s t : State) (o : AluOp) : State :=
  match o.rd with
  | some r =>
    let t := writeReg s t r o.res
    if o.um then postWrite t (umAddr s r).toNat o.res else t
  | none => t

/-- The registers an ALU instruction accesses; Update Memory looks at mode bit 4 (45 R364; 70 R561). -/
def aluRegs (s : State) (o : AluOp) : List Reg :=
  accessed s o.srcs o.rd.toList ++ (if o.um then [42] else [])

/-- The state after an ALU instruction (40 R180). -/
def aluNext (s : State) (o : AluOp) : State :=
  let t := readEffects (tick s { acc := aluRegs s o }) o.srcs
  let t := { t with ovf := o.ovf.getD t.ovf, cmpState := o.cmp.getD t.cmpState }
  advance (aluWrite s t o) (aluNextQueue s o.branch)

/-- Run an ALU instruction (40 R180). -/
def runAlu (s : State) (o : AluOp) : Host.Outcome State Fault Refusal :=
  complete s do
    aluCheck s o
    pure (aluNext s o)

/-- The branch of an arithmetic-class instruction (40 R183). -/
def arithBranch (abc : Abc) (k : Nat) (res : Half) (ovf ae : Bool) : Option (Bool × Bool) :=
  if abc = .none then none else some (abcHolds abc k res ovf, ae)

/-- The branch of a compare-class instruction (40 R184). -/
def cmpBranch (s : State) (cc : BitVec 3) (r : CmpState) (ae : Bool) : Option (Bool × Bool) :=
  if cc = 0 then none
  else match cmpCond s cc with
    | some c => some (cmpHolds c r, ae)
    | none => none

/-- A result of the arithmetic class: `alu` from the operands `a` and `b` (40 R180). -/
def arithOp (s : State) (rd : Reg) (um : Bool) (abc : Abc) (srcs : List Reg) (k : Nat) (ae : Bool)
    (a alu : Half) (ovf : Option Bool) : AluOp :=
  let res := modMerge k a alu
  { pre := abcCheck abc k, srcs := srcs, rd := some rd, um := um, res := res, ovf := ovf,
    branch := arithBranch abc k res (ovf.getD s.ovf) ae }

/-- OVF is written only without modulo (40 R188). -/
def ovfIf (k : Nat) (v : Bool) : Option Bool := if k = 16 then some v else none

/-- ADD (40 R197). -/
def execAdd (rd : Reg) (um : Bool) (abc : Abc) (rsa : Reg) (modx : BitVec 4) (ae : Bool)
    (rsb : SReg) (s : State) : Host.Outcome State Fault Refusal :=
  let a := readVal .alu s rsa
  let b := readVal .alu s (sw rsb)
  let k := modWidth modx
  runAlu s (arithOp s rd um abc [rsa, sw rsb] k ae a (a + b) (ovfIf k (ovfAdd a b (a + b))))

/-- SUB (41 R238). -/
def execSub (rd : Reg) (um : Bool) (abc : Abc) (rsa : Reg) (modx : BitVec 4) (ae : Bool)
    (rsb : SReg) (s : State) : Host.Outcome State Fault Refusal :=
  let a := readVal .alu s rsa
  let b := readVal .alu s (sw rsb)
  let k := modWidth modx
  runAlu s (arithOp s rd um abc [rsa, sw rsb] k ae a (a - b) (ovfIf k (ovfSub a b (a - b))))

/-- AND (40 R199). -/
def execAnd (rd : Reg) (um : Bool) (abc : Abc) (rsa : Reg) (modx : BitVec 4) (ae : Bool)
    (rsb : SReg) (s : State) : Host.Outcome State Fault Refusal :=
  let a := readVal .alu s rsa
  let b := readVal .alu s (sw rsb)
  runAlu s (arithOp s rd um abc [rsa, sw rsb] (modWidth modx) ae a (a &&& b) none)

/-- OR (40 R211). -/
def execOr (rd : Reg) (um : Bool) (abc : Abc) (rsa : Reg) (modx : BitVec 4) (ae : Bool)
    (rsb : SReg) (s : State) : Host.Outcome State Fault Refusal :=
  let a := readVal .alu s rsa
  let b := readVal .alu s (sw rsb)
  runAlu s (arithOp s rd um abc [rsa, sw rsb] (modWidth modx) ae a (a ||| b) none)

/-- XOR (41 R240). -/
def execXor (rd : Reg) (um : Bool) (abc : Abc) (rsa : Reg) (modx : BitVec 4) (ae : Bool)
    (rsb : SReg) (s : State) : Host.Outcome State Fault Refusal :=
  let a := readVal .alu s rsa
  let b := readVal .alu s (sw rsb)
  runAlu s (arithOp s rd um abc [rsa, sw rsb] (modWidth modx) ae a (a ^^^ b) none)

/-- ADDI (40 R198). -/
def execAddi (rd : Reg) (um : Bool) (abc : Abc) (rsa : Reg) (modx : BitVec 4) (usi : BitVec 6)
    (s : State) : Host.Outcome State Fault Refusal :=
  let a := readVal .alu s rsa
  let b := zext6 usi
  let k := modWidth modx
  runAlu s (arithOp s rd um abc [rsa] k false a (a + b) (ovfIf k (ovfAdd a b (a + b))))

/-- SUBI (41 R239). -/
def execSubi (rd : Reg) (um : Bool) (abc : Abc) (rsa : Reg) (modx : BitVec 4) (usi : BitVec 6)
    (s : State) : Host.Outcome State Fault Refusal :=
  let a := readVal .alu s rsa
  let b := zext6 usi
  let k := modWidth modx
  runAlu s (arithOp s rd um abc [rsa] k false a (a - b) (ovfIf k (ovfSub a b (a - b))))

/-- ANDI (40 R200). -/
def execAndi (rd : Reg) (um : Bool) (abc : Abc) (rsa : Reg) (si : BitVec 10) (s : State) :
    Host.Outcome State Fault Refusal :=
  let a := readVal .alu s rsa
  runAlu s (arithOp s rd um abc [rsa] 16 false a (a &&& sext10 si) none)

/-- ORI (40 R212). -/
def execOri (rd : Reg) (um : Bool) (abc : Abc) (rsa : Reg) (si : BitVec 10) (s : State) :
    Host.Outcome State Fault Refusal :=
  let a := readVal .alu s rsa
  runAlu s (arithOp s rd um abc [rsa] 16 false a (a ||| sext10 si) none)

/-- XORI (41 R241). -/
def execXori (rd : Reg) (um : Bool) (abc : Abc) (rsa : Reg) (si : BitVec 10) (s : State) :
    Host.Outcome State Fault Refusal :=
  let a := readVal .alu s rsa
  runAlu s (arithOp s rd um abc [rsa] 16 false a (a ^^^ sext10 si) none)

/-- A result of the MAX and MIN family: the relation is of the full operands, and CMPSTATE becomes a
free value (40 R207; log 15). -/
def extremeOp (s : State) (rd : Reg) (um : Bool) (cc : BitVec 3) (srcs : List Reg) (k : Nat)
    (ae : Bool) (a b win : Half) : AluOp :=
  { pre := cmpCodeCheck s cc k, srcs := srcs, rd := some rd, um := um, res := modMerge k a win,
    cmp := some (drawCmp s 60), branch := cmpBranch s cc (compare3 a b) ae }

/-- MAX (40 R207). -/
def execMax (rd : Reg) (um : Bool) (cc : BitVec 3) (rsa : Reg) (modx : BitVec 4) (ae : Bool)
    (rsb : SReg) (s : State) : Host.Outcome State Fault Refusal :=
  let a := readVal .alu s rsa
  let b := readVal .alu s (sw rsb)
  runAlu s (extremeOp s rd um cc [rsa, sw rsb] (modWidth modx) ae a b
    (if compare3 a b = .lt then b else a))

/-- MIN (40 R209). -/
def execMin (rd : Reg) (um : Bool) (cc : BitVec 3) (rsa : Reg) (modx : BitVec 4) (ae : Bool)
    (rsb : SReg) (s : State) : Host.Outcome State Fault Refusal :=
  let a := readVal .alu s rsa
  let b := readVal .alu s (sw rsb)
  runAlu s (extremeOp s rd um cc [rsa, sw rsb] (modWidth modx) ae a b
    (if compare3 a b = .gt then b else a))

/-- MAXI (40 R208). -/
def execMaxi (rd : Reg) (um : Bool) (cc : BitVec 3) (rsa : Reg) (si : BitVec 10) (s : State) :
    Host.Outcome State Fault Refusal :=
  let a := readVal .alu s rsa
  let b := sext10 si
  runAlu s (extremeOp s rd um cc [rsa] 16 false a b (if compare3 a b = .lt then b else a))

/-- MINI (40 R210). -/
def execMini (rd : Reg) (um : Bool) (cc : BitVec 3) (rsa : Reg) (si : BitVec 10) (s : State) :
    Host.Outcome State Fault Refusal :=
  let a := readVal .alu s rsa
  let b := sext10 si
  runAlu s (extremeOp s rd um cc [rsa] 16 false a b (if compare3 a b = .gt then b else a))

/-- A compare whose logged relation is `c` (40 R201 to R204). -/
def compareOp (s : State) (cc : BitVec 3) (srcs : List Reg) (ae : Bool) (c : CmpState) : AluOp :=
  { pre := cmpCodeCheck s cc 16, srcs := srcs, rd := none, um := false, res := 0, cmp := some c,
    branch := cmpBranch s cc c ae }

/-- CMP (40 R201). -/
def execCmp (cc : BitVec 3) (rsa : Reg) (ae : Bool) (rsb : SReg) (s : State) :
    Host.Outcome State Fault Refusal :=
  runAlu s (compareOp s cc [rsa, sw rsb] ae
    (compare3 (readVal .alu s rsa) (readVal .alu s (sw rsb))))

/-- CMPP (40 R203). -/
def execCmpp (cc : BitVec 3) (rsa : Reg) (ae : Bool) (rsb : SReg) (s : State) :
    Host.Outcome State Fault Refusal :=
  runAlu s (compareOp s cc [rsa, sw rsb] ae
    (combine s.cmpState (compare3 (readVal .alu s rsa) (readVal .alu s (sw rsb)))))

/-- CMPI (40 R202). -/
def execCmpi (cc : BitVec 3) (rsa : Reg) (si : BitVec 10) (s : State) :
    Host.Outcome State Fault Refusal :=
  runAlu s (compareOp s cc [rsa] false (compare3 (readVal .alu s rsa) (sext10 si)))

/-- CMPPI (40 R204). -/
def execCmppi (cc : BitVec 3) (rsa : Reg) (si : BitVec 10) (s : State) :
    Host.Outcome State Fault Refusal :=
  runAlu s (compareOp s cc [rsa] false
    (combine s.cmpState (compare3 (readVal .alu s rsa) (sext10 si))))

/-- FLS (40 R205). -/
def execFls (rd : Reg) (um : Bool) (abc : Abc) (rsa : Reg) (ae : Bool) (s : State) :
    Host.Outcome State Fault Refusal :=
  let a := readVal .alu s rsa
  runAlu s (arithOp s rd um abc [rsa] 16 ae a (findLastSet a) none)

/-- A load of an immediate: no source and no branch (40 R206). -/
def limdOp (rd : Reg) (um : Bool) (li : Half) : AluOp :=
  { pre := .ok (), srcs := [], rd := some rd, um := um, res := li }

/-- LIMD (40 R206). -/
def execLimd (rd : Reg) (um : Bool) (li : BitVec 16) (s : State) :
    Host.Outcome State Fault Refusal :=
  runAlu s (limdOp rd um li)

/-- NOP: LIMD R36, 0 (41 R242). -/
def execNop (s : State) : Host.Outcome State Fault Refusal :=
  runAlu s (limdOp 36 false 0)

/-- MV: ORI (rsa, 0) rd (41 R243). -/
def execMv (rd rsa : Reg) (s : State) : Host.Outcome State Fault Refusal :=
  let a := readVal .alu s rsa
  runAlu s (arithOp s rd false .none [rsa] 16 false a (a ||| sext10 0) none)

/-- TSET: ANDI (rsa, mask) R36 BNZ (41 R244). -/
def execTset (rsa : Reg) (mask : BitVec 10) (s : State) : Host.Outcome State Fault Refusal :=
  let a := readVal .alu s rsa
  runAlu s (arithOp s 36 false .bnz [rsa] 16 false a (a &&& sext10 mask) none)

/-- TCLR: ANDI (rsa, mask) R36 BZ (41 R245). -/
def execTclr (rsa : Reg) (mask : BitVec 10) (s : State) : Host.Outcome State Fault Refusal :=
  let a := readVal .alu s rsa
  runAlu s (arithOp s 36 false .bz [rsa] 16 false a (a &&& sext10 mask) none)

end Sys2Proof.Machine
end

