-- ==== Sys2Proof/Machine/Shift.lean ====
section
/-!
DEFINITION. The seven shift instructions (41 R230 to R237).
-/
namespace Sys2Proof.Machine

/-- SFT (41 R231). -/
def execSft (rd : Reg) (um : Bool) (abc : Abc) (rsa : Reg) (modx : BitVec 4) (rsb : SReg)
    (s : State) : Host.Outcome State Fault Refusal :=
  let a := readVal .alu s rsa
  let b := readVal .alu s (sw rsb)
  runAlu s (arithOp s rd um abc [rsa, sw rsb] (modWidth modx) false a
    (sft a (b.extractLsb' 0 5)) none)

/-- SFTA: an amount with bit 4 set is read two ways by the manual and stops (41 R232). -/
def execSfta (rd : Reg) (um : Bool) (abc : Abc) (rsa : Reg) (modx : BitVec 4) (rsb : SReg)
    (s : State) : Host.Outcome State Fault Refusal :=
  let a := readVal .alu s rsa
  let b := readVal .alu s (sw rsb)
  runAlu s { arithOp s rd um abc [rsa, sw rsb] (modWidth modx) false a
      (sar a (b.extractLsb' 0 4).toNat) none with
    value := raiseIf (b.getLsbD 4) .shiftAmountAmbiguous }

/-- SFTC (41 R234). -/
def execSftc (rd : Reg) (um : Bool) (abc : Abc) (rsa : Reg) (modx : BitVec 4) (ae : Bool)
    (rsb : SReg) (s : State) : Host.Outcome State Fault Refusal :=
  let a := readVal .alu s rsa
  let b := readVal .alu s (sw rsb)
  runAlu s (arithOp s rd um abc [rsa, sw rsb] (modWidth modx) ae a
    (rotl a (b.extractLsb' 0 4).toNat) none)

/-- SFTAI (41 R233). -/
def execSftai (rd : Reg) (um : Bool) (abc : Abc) (rsa : Reg) (modx : BitVec 4) (usa : BitVec 4)
    (s : State) : Host.Outcome State Fault Refusal :=
  let a := readVal .alu s rsa
  runAlu s (arithOp s rd um abc [rsa] (modWidth modx) false a (sar a usa.toNat) none)

/-- SFTCI (41 R235). -/
def execSftci (rd : Reg) (um : Bool) (abc : Abc) (rsa : Reg) (modx : BitVec 4) (ae : Bool)
    (usa : BitVec 4) (s : State) : Host.Outcome State Fault Refusal :=
  let a := readVal .alu s rsa
  runAlu s (arithOp s rd um abc [rsa] (modWidth modx) ae a (rotl a usa.toNat) none)

/-- SFTLI: `tcsa[4]` is 0 (41 R237). -/
def execSftli (rd : Reg) (um : Bool) (abc : Abc) (rsa : Reg) (modx : BitVec 4) (ae : Bool)
    (amt : BitVec 4) (s : State) : Host.Outcome State Fault Refusal :=
  let a := readVal .alu s rsa
  runAlu s (arithOp s rd um abc [rsa] (modWidth modx) ae a
    (sft a ((0 : BitVec 1) ++ amt : BitVec 5)) none)

/-- SFTRI: `tcsa[4]` is 1 (41 R236). -/
def execSftri (rd : Reg) (um : Bool) (abc : Abc) (rsa : Reg) (modx : BitVec 4) (ae : Bool)
    (amt : BitVec 4) (s : State) : Host.Outcome State Fault Refusal :=
  let a := readVal .alu s rsa
  runAlu s (arithOp s rd um abc [rsa] (modWidth modx) ae a
    (sft a ((1 : BitVec 1) ++ amt : BitVec 5)) none)

end Sys2Proof.Machine
end

