-- ==== Sys2Proof/Machine/Branch.lean ====
section
/-!
DEFINITION. The six Branch instructions (42_branch).
-/
namespace Sys2Proof.Machine

/-! ### The condition (42 R261) -/

/-- Check a test of ESS `k` and its implied operands (42 R261; 70 R560, R561, R563; 44 R322; 52 R494). -/
def essCheck (s : State) (k : Fin 16) : Check Unit :=
  match k.val with
  | 2 => impliedUse s 62 2
  | 3 => impliedUse s 62 2
  | 6 => lagCheck s s.cinLag
  | 7 => lagCheck s s.coutLag
  | 8 => do
    accessOne s 57
    eventCheck s
    impliedUse s 63 2
  | 9 => impliedUse s 62 2
  | 10 => impliedUse s 62 2
  | 11 => dmaLagCheck s 0
  | 12 => dmaLagCheck s 1
  | 13 => dmaLagCheck s 0
  | 14 => dmaLagCheck s 1
  | _ => .ok ()

/-- The transmit size as an instruction sees it: inside the window of R62 the old or a drawn one (70
R563(a)). -/
def txSizeSeen (s : State) : Nat := txSizeOf (useVal s (.reg 62) 2 s.regs[62])

/-- ESS `k` as a Branch instruction tests it. -/
def essVal (s : State) (k : Fin 16) : Bool :=
  match k.val with
  | 6 => lagVal s s.cinLag 5 s.cinBusy
  | 7 => lagVal s s.coutLag 6 s.coutRdy
  | 8 => (List.finRange 6).any fun b => eventBit s (b.castLE (by decide))
  | 10 => s.txfull == txSizeSeen s
  | 11 => dmaEss s 0 1 s.q1.length
  | 12 => dmaEss s 1 1 s.q2.length
  | 13 => dmaEss s 0 2 s.q1.length
  | 14 => dmaEss s 1 2 s.q2.length
  | _ => ess s k

/-- The branch is taken: ESS# 1111 is unconditional whatever S is (42 R261). -/
def branchTaken (s : State) (e : Fin 16) (sense : Bool) : Bool := e == 15 || essVal s e == sense

/-! ### The counter operation (42 R263; 50 R432 to R435) -/

/-- A counter operation uses R62 (70 R561, R563). -/
def csoUse (s : State) (c : Cso) : Check Unit :=
  match c with
  | .none => .ok ()
  | .drxbusy => impliedUse s 62 2
  | .drxfull => impliedUse s 62 2
  | .itxbusy => impliedUse s 62 2
  | .itxfull => impliedUse s 62 2

/-- Check the range of the counter operation (42 R263; 10 R78). -/
def csoCheck (s : State) (c : Cso) : Check Unit :=
  match c with
  | .none => .ok ()
  | .drxbusy => raiseIf (s.rxbusy == 0) .counterRange
  | .drxfull => raiseIf (s.rxfull == 0) .counterRange
  | .itxbusy => raiseIf (decide (txSizeSeen s ≤ s.txbusy)) .counterRange
  | .itxfull => raiseIf (decide (txSizeSeen s ≤ s.txfull)) .counterRange

/-- Perform the counter operation (42 R263). -/
def csoApply (s : State) (c : Cso) : State :=
  match c with
  | .none => s
  | .drxbusy => { s with rxbusy := s.rxbusy - 1 }
  | .drxfull => { s with rxfull := s.rxfull - 1 }
  | .itxbusy => { s with txbusy := s.txbusy + 1 }
  | .itxfull => { s with txfull := s.txfull + 1 }

/-! ### The instruction -/

/-- Where a Branch instruction takes its target from (42 R260). -/
inductive Target where
  | imm (wadr : BitVec 12)
  /-- R59 or R58. -/
  | reg (r : Reg)
deriving DecidableEq, Repr

/-- Check the read of the target register, made only when taken (42 R264). -/
def targetCheck (s : State) (t : Target) : Check Unit :=
  match t with
  | .imm _ => .ok ()
  | .reg r => readCheck .branch s r

/-- The branch target `{R53[4:0], t[11:0]}` (42 R264). -/
def targetAddr (s : State) (t : Target) : BitVec 17 :=
  let low : BitVec 12 :=
    match t with
    | .imm w => w
    | .reg r => (readVal .branch s r).extractLsb' 0 12
  (s.regs[53].extractLsb' 0 5 ++ low : BitVec 17)

/-- The link value: the offset of N + 2 (42 R265). -/
def linkValue (s : State) : Half := ((s.pc + 2).extractLsb' 0 12).zeroExtend 16

/-- The link write, a delayed write of the Table 3 class (42 R265). -/
def writeLink (w s : State) (nul : Bool) : State :=
  addRec (setReg s 59 (linkValue w)) (.reg 59) w.regs[59] (if nul then .linkNullified else .link)

/-- BF and BFL wait for the first halfword of an LMFM with LNK (42 R270). -/
def shadowWait (s : State) (t : Target) : Check Unit :=
  match t with
  | .reg r => stallIf (r == 58 && s.fmJobs.any fun j => j.lnk && j.k == 0)
  | .imm _ => .ok ()

/-- The registers whose configuration or events a test of ESS `k` uses (70 R560, R561). -/
def essRegs (k : Fin 16) : List Reg :=
  match k.val with
  | 2 => [62]
  | 3 => [62]
  | 8 => [57, 63]
  | 9 => [62]
  | 10 => [62]
  | _ => []

/-- The registers a Branch instruction accesses, its implied operands among them (42 R261, R263 to
R265; 45 R364). -/
def branchRegs (taken link : Bool) (t : Target) (e : Fin 16) (cso : Cso) : List Reg :=
  let counter : List Reg := if cso = .none then [] else [62]
  let target : List Reg :=
    match t with
    | .reg r => [53, r]
    | .imm _ => [53]
  let linked : List Reg := if link then [59] else []
  essRegs e ++ counter ++ (if taken then target ++ linked else [])

/-- Everything a Branch instruction checks, in the order of 60 R523 (42 R260, R264). -/
def branchCheck (s : State) (link : Bool) (t : Target) (e : Fin 16) (sense c : Bool) (cso : Cso) :
    Check Unit := do
  shadowWait s t
  fetchUse s
  essCheck s e
  csoUse s cso
  let taken := branchTaken s e sense
  if taken then targetCheck s t
  if taken then accessOne s 53
  if taken && link then destCheck s 59
  csoCheck s cso
  nullifyCheck s (e == 15) taken c
  branchFlowCheck s (e == 15) taken c

/-- The state after a Branch instruction (42 R260). -/
def branchNext (s : State) (link : Bool) (t : Target) (e : Fin 16) (sense c : Bool) (cso : Cso) :
    State :=
  let taken := branchTaken s e sense
  let nul := nullified (e == 15) taken c
  let u := csoApply (tick s { acc := branchRegs taken link t e cso }) cso
  let u := { u with segBranch := segmentOff s && ! taken }
  let u := if nul then nullifyEffect s u else u
  let u := if taken && link then writeLink s u nul else u
  advance u (branchQueue s (e == 15) taken c (targetAddr s t))

/-- Run a Branch instruction (42 R260). -/
def runBranch (s : State) (link : Bool) (t : Target) (e : Fin 16) (sense c : Bool) (cso : Cso) :
    Host.Outcome State Fault Refusal :=
  complete s do
    branchCheck s link t e sense c cso
    pure (branchNext s link t e sense c cso)

/-- BI (42 R266). -/
def execBi (e : Fin 16) (sense c : Bool) (cso : Cso) (wadr : BitVec 12) (s : State) :
    Host.Outcome State Fault Refusal :=
  runBranch s false (.imm wadr) e sense c cso

/-- BIL (42 R267). -/
def execBil (e : Fin 16) (sense c : Bool) (cso : Cso) (wadr : BitVec 12) (s : State) :
    Host.Outcome State Fault Refusal :=
  runBranch s true (.imm wadr) e sense c cso

/-- BR (42 R268). -/
def execBr (e : Fin 16) (sense c : Bool) (cso : Cso) (s : State) :
    Host.Outcome State Fault Refusal :=
  runBranch s false (.reg 59) e sense c cso

/-- BRL (42 R269). -/
def execBrl (e : Fin 16) (sense c : Bool) (cso : Cso) (s : State) :
    Host.Outcome State Fault Refusal :=
  runBranch s true (.reg 59) e sense c cso

/-- BF (42 R270). -/
def execBf (e : Fin 16) (sense c : Bool) (cso : Cso) (s : State) :
    Host.Outcome State Fault Refusal :=
  runBranch s false (.reg 58) e sense c cso

/-- BFL (42 R271). -/
def execBfl (e : Fin 16) (sense c : Bool) (cso : Cso) (s : State) :
    Host.Outcome State Fault Refusal :=
  runBranch s true (.reg 58) e sense c cso

end Sys2Proof.Machine
end

