-- ==== Sys2Proof/Machine/Css.lean ====
section
/-!
DEFINITION. The four Cell Scheduling instructions and the Cell Scheduling System (43_cell_scheduling).
-/
namespace Sys2Proof.Machine

/-! ### The instructions -/

/-- The operation an instruction hands to the CSS, with the registers it reads (43 R294). -/
structure CssIssue where
  kind : CssKind
  srcs : List Reg
  rd : Reg
  rsb : SReg
  cid : Half

/-- Everything a Cell Scheduling instruction checks (43 R294 to R296, R299; 70 R560, R561). -/
def cssCheck (s : State) (o : CssIssue) : Check Unit := do
  raiseIf (o.kind == .popc && decide (32 ≤ o.rd.val)) .operandClass
  sourceCheck .other s o.srcs
  impliedUse s 60 2
  if o.kind = .popc then destCheck s o.rd
  raiseIf ((useVal s (.reg 60) 2 s.regs[60]).getLsbD 14) .cssInReset
  raiseIf (o.kind == .popf && s.popfAge.isSome) .popfSpacing
  advanceCheck s s.fq
  stallIf (decide (2 ≤ s.cssq.length))

/-- The entry appended to the CSS instruction buffer (43 R294). -/
def cssOpOf (s : State) (o : CssIssue) : CssOp :=
  { kind := o.kind, t := (readVal .other s (sw o.rsb)).extractLsb' 0 14, cid := o.cid, rd := o.rd }

/-- The state after a Cell Scheduling instruction (43 R294). -/
def cssNext (s : State) (o : CssIssue) : State :=
  let ds := if o.kind = .popc then [o.rd] else []
  let t := readEffects (tick s { acc := 60 :: accessed s o.srcs ds }) o.srcs
  let t := { t with
    cssq := s.cssq ++ [cssOpOf s o]
    popcShadow := if o.kind = .popc then some o.rd else none
    popfAge := if o.kind = .popf then some 0 else t.popfAge }
  advance t s.fq

/-- Run a Cell Scheduling instruction (43 R294). -/
def runCss (s : State) (o : CssIssue) : Host.Outcome State Fault Refusal :=
  complete s do
    cssCheck s o
    pure (cssNext s o)

/-- POPC (43 R295). -/
def execPopc (rd : Reg) (rsb : SReg) (s : State) : Host.Outcome State Fault Refusal :=
  runCss s { kind := .popc, srcs := [sw rsb], rd := rd, rsb := rsb, cid := 0 }

/-- POPF: the `rd` field is carried and ignored (43 R296). -/
def execPopf (rd : Reg) (rsb : SReg) (s : State) : Host.Outcome State Fault Refusal :=
  runCss s { kind := .popf, srcs := [sw rsb], rd := rd, rsb := rsb, cid := 0 }

/-- PUSHC (43 R297). -/
def execPushc (rsa : Reg) (rsb : SReg) (s : State) : Host.Outcome State Fault Refusal :=
  runCss s { kind := .pushc, srcs := [rsa, sw rsb], rd := rsa, rsb := rsb,
             cid := readVal .other s rsa }

/-- PUSHF: the register of the `rsa` field is not read (43 R298). -/
def execPushf (rsa : Reg) (rsb : SReg) (s : State) : Host.Outcome State Fault Refusal :=
  runCss s { kind := .pushf, srcs := [sw rsb], rd := rsa, rsb := rsb, cid := 0 }

/-! ### The Cell Scheduling System -/

/-- The number of slots of a section, `2048 << SZ` (43 R292). -/
def sectionSize (s : State) : Nat := 2048 * 2 ^ (s.regs[60].extractLsb' 12 2).toNat

/-- The Connection ID table address of a slot (43 R293). -/
def cidAddr (s : State) (n : Nat) : Nat := (s.regs[60].extractLsb' 8 4).toNat * 0x8000 + 2 * n

/-- Look at `fuel` slots of the section at `b`, from its offset `off + k`, for the first Available
one (43 R297); an unwritten bit met on the way has no value. -/
def searchFree (m : Sparse Bool) (b off len : Nat) : (fuel k : Nat) → Check (Option Nat)
  | 0, _ => .ok none
  | fuel + 1, k =>
    let n := b + (off + k) % len
    match Memory.read m n with
    | none => .error (.fault .unwrittenRead)
    | some false => .ok (some n)
    | some true => searchFree m b off len fuel (k + 1)

/-- The slot a PUSHC or PUSHF of slot `t` reserves, if its section has one (43 R297). -/
def findSlot (s : State) (t : Nat) : Check (Option Nat) :=
  let len := sectionSize s
  searchFree s.sb (t - t % len) (t % len) len len 0

/-- Copy a Scoreboard bit to ACF and clear it; an unwritten bit leaves ACF open (43 R295, log 15). -/
def popSlot (s : State) (t : Nat) : State :=
  { s with acf := (Memory.read s.sb t).getD (drawBit s 20), sb := Memory.write s.sb t false }

/-- The Connection ID a POPC reads; a halfword nobody has written gives an open value (43 R295). -/
def cidRead (s : State) (t : Nat) : Half := (fmReadHalf s (cidAddr s t) 21).getD (draw s 23)

/-- A search that finds the section full: E is set and R61 is open (43 R299). -/
def cssFull (s : State) : State :=
  { s with regs := (s.regs.set 60 (s.regs[60] ||| 0x8000)).set 61 ((draw s 24) &&& 0x3FFF) }

/-- Reserve slot `n` and show it in R61 (43 R297). -/
def reserveSlot (s : State) (n : Nat) : State :=
  { s with sb := Memory.write s.sb n true, regs := s.regs.set 61 (BitVec.ofNat 16 n) }

/-- A Fast Memory address of the CSS must be populated (43 R293). -/
def cidCheck (s : State) (n : Nat) : Check Unit :=
  raiseIf (decide (fmLimit s (modeBit s 4) ≤ cidAddr s n)) .fmOutOfRange

/-- Perform one operation as one action, with the buffer already shortened (43 R295 to R298). -/
def cssPerform (s : State) (o : CssOp) : Check State :=
  match o.kind with
  | .popc => do
    cidCheck s o.t.toNat
    .ok (setReg (popSlot s o.t.toNat) o.rd (cidRead s o.t.toNat))
  | .popf => .ok (popSlot s o.t.toNat)
  | .pushc => do
    match ← findSlot s o.t.toNat with
    | none => .ok (cssFull s)
    | some n => do
      cidCheck s n
      stallIf (decide (4 ≤ s.wbuf.length))
      .ok (postWrite (reserveSlot s n) (cidAddr s n) o.cid)
  | .pushf => do
    match ← findSlot s o.t.toNat with
    | none => .ok (cssFull s)
    | some n => .ok (reserveSlot s n)

/-- A step of the CSS: it performs the oldest operation (43 R294). -/
def cssStep (s : State) : Check State :=
  match s.cssq with
  | [] => .error .stall
  | o :: rest => cssPerform { s with cssq := rest, draws := s.draws + 1 } o

end Sys2Proof.Machine
end

