-- ==== Sys2Proof/Machine/FastMem.lean ====
section
/-!
DEFINITION. LMFM, SHFM and SRH, and the Fast Memory controller (45_fast_memory).
-/
namespace Sys2Proof.Machine

/-! ### LMFM -/

/-- An LMFM as its word gives it. -/
structure LmfmOp where
  rd : Reg
  lnk : Bool
  z : Bool
  rsa : Reg
  n : Nat
  rsb : SReg

/-- The registers an LMFM loads (45 R364, R365). -/
def lmfmDests (o : LmfmOp) : List Reg :=
  (List.range o.n).map (fun k => Fin.ofNat 64 (o.rd.val + k)) ++
    (if o.lnk && o.n != 0 then [58] else [])

/-- The Fast Memory address of an LMFM, masked under Z (45 R361, R362). -/
def lmfmAddr (s : State) (o : LmfmOp) : BitVec 20 :=
  let a := fmAddr (readVal .other s o.rsa) (readVal .other s (sw o.rsb))
  if o.z then a &&& (zMask o.rd).getD (BitVec.allOnes 20) else a

/-- Size and alignment of a burst of `n` halfwords at `a` (45 R361, R363). -/
def burstCheck (s : State) (a : BitVec 20) (n : Nat) : Check Unit := do
  raiseIf (a.getLsbD 0) .fmOddAddress
  raiseIf (decide (fmLimit s (modeVal s 4) < a.toNat + 2 * n)) .fmOutOfRange
  raiseIf (decide (2 ≤ n) && a.getLsbD 1) .fmBurstAlign
  raiseIf (decide (32 < a.toNat % 32 + 2 * n)) .fmBurstCross

/-- The limits of a link (45 R368). -/
def linkCheck (rd : Reg) (a : BitVec 20) (n : Nat) : Check Unit := do
  raiseIf (decide (16 - rd.val % 16 < n)) .linkLimit
  raiseIf (a.extractLsb' 1 4 &&& ~~~ reg4 rd != 0) .linkMisaligned

/-- An undelivered destination of an older LMFM, interlocked or ordered (45 R364). -/
def lmfmOwes (s : State) (r : Reg) : Bool :=
  s.fmJobs.any fun j => lmfmInterlocked j r || lmfmOrdered j r

/-- The checks of the destinations of an LMFM: the faults of a write, then the write-after-write
wait (45 R365; 44 R327; 70 R565(b); log 24). -/
def lmfmDestCheck (s : State) (ds : List Reg) : Check Unit := do
  raiseIf (ds.any fun r => s.popcShadow == some r) .popcShadowAccess
  raiseIf (ds.any fun r => (plusOf s r).isSome) .rlaIncrementHazard
  raiseIf (ds.any fun r => s.rlaTrap == some r) .loadHardwareRegisterHazard
  stallIf (ds.any fun r => pending s r || lmfmOwes s r)

/-- Everything an LMFM checks, in the order of 60 R523 (45 R365). -/
def lmfmCheck (s : State) (o : LmfmOp) : Check Unit := do
  raiseIf (decide (16 < o.n)) .reservedEncoding
  raiseIf (decide (64 < o.rd.val + o.n)) .lmfmRegisterRange
  raiseIf (o.z && (zMask o.rd).isNone) .zbitDestination
  sourceCheck .other s [o.rsa, sw o.rsb]
  if o.n ≠ 0 then modeRead s 4
  lmfmDestCheck s (lmfmDests o)
  if o.n ≠ 0 then burstCheck s (lmfmAddr s o) o.n
  if o.lnk then linkCheck o.rd (lmfmAddr s o) o.n
  advanceCheck s s.fq

/-- Form the link (45 R368). -/
def setLink (t : State) (rd : Reg) (a : BitVec 20) : State :=
  { t with linkMask := ~~~ reg4 rd,
           linkAdrs := (a.extractLsb' 5 15 ++ (a.extractLsb' 1 4 &&& reg4 rd) : BitVec 19) }

/-- The registers an LMFM accesses; a burst looks at mode bit 4 (45 R364; 70 R561). -/
def lmfmRegs (s : State) (o : LmfmOp) : List Reg :=
  accessed s [o.rsa, sw o.rsb] [] ++ (if o.n = 0 then [] else [42]) ++ lmfmDests o

/-- The state after an LMFM (45 R365). -/
def lmfmNext (s : State) (o : LmfmOp) : State :=
  let a := lmfmAddr s o
  let srcs := [o.rsa, sw o.rsb]
  let t := readEffects (tick s { acc := lmfmRegs s o }) srcs
  let t := if o.lnk then setLink t o.rd a else t
  let t := if o.n = 0 then t else
    { t with fmJobs := t.fmJobs ++
        [{ addr := a.toNat, n := o.n, rd := o.rd, lnk := o.lnk, k := 0, acc := none }] }
  advance t s.fq

/-- LMFM (45 R365). -/
def execLmfm (rd : Reg) (lnk z : Bool) (rsa : Reg) (hw : BitVec 5) (rsb : SReg) (s : State) :
    Host.Outcome State Fault Refusal :=
  let o : LmfmOp := { rd := rd, lnk := lnk, z := z, rsa := rsa, n := hw.toNat, rsb := rsb }
  complete s do
    lmfmCheck s o
    pure (lmfmNext s o)

/-! ### SHFM and SRH -/

/-- The data source of an SRH (45 R367). -/
def srhSource (reg : BitVec 3) : Reg :=
  match reg.toNat with
  | 0 => 56
  | 1 => 37
  | 2 => 38
  | 3 => 39
  | 4 => 44
  | 5 => 45
  | 6 => 46
  | _ => 47

/-- The registers that address an SRH: none through a holding register (45 R367). -/
def srhRegs (adr : BitVec 2) (rsa : Reg) (rsb : SReg) : List Reg :=
  if adr.getLsbD 1 then [] else [rsa, sw rsb]

/-- The target of an SRH (45 R367). -/
def srhAddr (s : State) (adr : BitVec 2) (rsa : Reg) (lsbs : BitVec 5) (rsb : SReg) : BitVec 20 :=
  let a := fmAddr (readVal .other s rsa) (readVal .other s (sw rsb))
  match adr.toNat with
  | 0 => a
  | 1 => a.extractLsb' 5 15 ++ lsbs
  | 2 => s.holdX.extractLsb' 5 15 ++ lsbs
  | _ => s.holdY.extractLsb' 5 15 ++ lsbs

/-- The command whose holding register addresses an SRH (45 R367). -/
def srhHold (adr : BitVec 2) : CrcSel :=
  match adr.toNat with
  | 2 => .x
  | 3 => .y
  | _ => .none

/-- A holding register is not touched while a command that uses it is outstanding (44 R338; 92 D57;
70 R568 line 15). -/
def holdCheck (s : State) (hold : CrcSel) : Check Unit :=
  raiseIf (hold != .none && crcOwned s hold) .crcPairBusy

/-- Everything a halfword store to Fast Memory checks (45 R366, R367). -/
def fmStoreCheck (s : State) (hold : CrcSel) (regs : List Reg) (src : Reg) (a : BitVec 20) :
    Check Unit := do
  sourceCheck .other s (regs ++ [src])
  holdCheck s hold
  modeRead s 4
  raiseIf (a.getLsbD 0) .fmOddAddress
  raiseIf (decide (fmLimit s (modeVal s 4) ≤ a.toNat)) .fmOutOfRange
  advanceCheck s s.fq
  stallIf (decide (4 ≤ s.wbuf.length))

/-- The state after a halfword store to Fast Memory (45 R366, R367). -/
def fmStoreNext (s : State) (regs : List Reg) (src : Reg) (a : BitVec 20) : State :=
  let t := readEffects (tick s { acc := accessed s (regs ++ [src]) [] ++ [42] }) regs
  advance (postWrite t a.toNat (readVal .other s src)) s.fq

/-- Run a halfword store to Fast Memory. -/
def runFmStore (s : State) (hold : CrcSel) (regs : List Reg) (src : Reg) (a : BitVec 20) :
    Host.Outcome State Fault Refusal :=
  complete s do
    fmStoreCheck s hold regs src a
    pure (fmStoreNext s regs src a)

/-- SHFM (45 R366). -/
def execShfm (rsa : Reg) (rsb : SReg) (s : State) : Host.Outcome State Fault Refusal :=
  runFmStore s .none [rsa, sw rsb] 56 (fmAddr (readVal .other s rsa) (readVal .other s (sw rsb)))

/-- SRH (45 R367). -/
def execSrh (adr : BitVec 2) (reg : BitVec 3) (rsa : Reg) (lsbs : BitVec 5) (rsb : SReg)
    (s : State) : Host.Outcome State Fault Refusal :=
  runFmStore s (srhHold adr) (srhRegs adr rsa rsb) (srhSource reg) (srhAddr s adr rsa lsbs rsb)

/-! ### The Fast Memory controller (45 R360) -/

/-- The load job after one more delivery; a finished one is removed (45 R360). -/
def jobAfter (j : LmfmJob) : List LmfmJob :=
  if j.k + 1 < j.n then [{ j with k := j.k + 1 }] else []

/-- Load R58 by a linked LMFM: a landing like any other, but one that BF and BFL may use at once (70
R563(b); 42 R270). -/
def loadShadow (s : State) (v : Half) : State :=
  addRec (setReg s 58 (v &&& 0x0FFF)) (.reg 58) s.regs[58] .shadow

/-- Deliver one halfword of the oldest load job: to its register as a program write would, and the
first of a linked job to R58 (45 R360, R364). -/
def fmcLoadStep (s : State) : Check State :=
  match s.fmJobs with
  | [] => .error .stall
  | j :: rest =>
    match fmReadHalf s (j.addr + 2 * j.k) 25 with
    | none => .error (.fault .unwrittenRead)
    | some v => do
      let r : Reg := Fin.ofNat 64 (j.rd.val + j.k)
      writeCheck s r v
      let t := writeReg s s r v
      let t := if j.lnk && j.k == 0 then loadShadow t v else t
      .ok { t with fmJobs := jobAfter j ++ rest, draws := s.draws + 1 }

/-- A load job has begun and not ended: its burst is not interrupted (45 R360). -/
def burstActive (s : State) : Bool := s.fmJobs.any fun j => decide (0 < j.k) && decide (j.k < j.n)

/-- Retire the oldest posted write (45 R360; 20 R120). -/
def fmcDrainStep (s : State) : Check State :=
  match s.wbuf with
  | [] => .error .stall
  | (a, v) :: rest =>
    if burstActive s then .error .stall
    else .ok { s with wbuf := rest, fm := writeHalf s.fm a v, draws := s.draws + 1 }

end Sys2Proof.Machine
end

