-- ==== Sys2Proof/Machine/InternalRam.lean ====
section
/-!
DEFINITION. LD, LDD, ST and STD, and the load/store unit (46_internal_ram).
-/
namespace Sys2Proof.Machine

/-! ### The instructions -/

/-- The next register; `rd` is below R63 where it is used (46 R397). -/
def nextReg (r : Reg) : Reg := Fin.ofNat 64 (r.val + 1)

/-- The target address of a load or store (46 R394). -/
def targetOf (s : State) (x : Rla) (idx : BitVec 5) : Half := target (rlaVal .other s x) idx

/-- The faults of a target address (46 R392, R393). -/
def targetFaults (t : Half) (swap : BitVec 2) : Check Unit := do
  raiseIf (inScoreboard t && swap != 0) .scoreboardSwap
  raiseIf (gatherBad t) .gatherOutOfRange

/-- Everything a load checks, in the order of 60 R523 (46 R396, R397). -/
def loadCheck (s : State) (x : Rla) (swap : BitVec 2) (t : Half) (ds : List Reg) : Check Unit := do
  raiseIf (ds.contains 61) .writeReadOnly
  sourceCheck .other s (rlaRegs x)
  ds.forM (destCheck s)
  targetFaults t swap
  advanceCheck s s.fq

/-- Append an operation to the list of the load/store unit and complete (46 R390). -/
def lsuNext (s : State) (d : Done) (srcs : List Reg) (o : LsuOp) : State :=
  let t := readEffects (tick s d) srcs
  advance { t with lsu := s.lsu ++ [o] } s.fq

/-- What a load tells its completion (70 R562, R565). -/
def loadDone (s : State) (x : Rla) (rd : Reg) (ds : List Reg) : Done :=
  { acc := accessed s (rlaRegs x) ds, hwLoad := decide (32 ≤ rd.val), rla := rlaReg x }

/-- LD (46 R396). -/
def execLd (rd : Reg) (x : Rla) (swap : BitVec 2) (idx : BitVec 5) (s : State) :
    Host.Outcome State Fault Refusal :=
  let t := targetOf s x idx
  complete s do
    raiseIf (swap.getLsbD 1) .swapUndefined
    loadCheck s x swap t [rd]
    pure (lsuNext s (loadDone s x rd [rd]) [] (.load1 t rd (swap.getLsbD 0)))

/-- The registers paired with the two addresses of a double access (46 R393). -/
def pairUp {α : Type} (swap : BitVec 2) (a b : α) : α × α :=
  if swap.getLsbD 1 then (b, a) else (a, b)

/-- LDD (46 R397). -/
def execLdd (rd : Reg) (x : Rla) (swap : BitVec 2) (idx : BitVec 5) (s : State) :
    Host.Outcome State Fault Refusal :=
  let t := targetOf s x idx
  let p := pairUp swap rd (nextReg rd)
  complete s do
    raiseIf (rd == 63) .operandClass
    loadCheck s x swap t [rd, nextReg rd]
    pure (lsuNext s (loadDone s x rd [rd, nextReg rd]) []
      (.load2 t p.1 p.2 (swap.getLsbD 0) false))

/-- The list of the load/store unit holds a store (46 R390). -/
def holdsStore (s : State) : Bool :=
  s.lsu.any fun o =>
    match o with
    | .load1 _ _ _ => false
    | .load2 _ _ _ _ _ => false
    | .store1 _ _ => true
    | .store2 _ _ _ _ => true

/-- What a store tells its completion. -/
def storeDone (s : State) (x : Rla) (srcs : List Reg) : Done :=
  { acc := accessed s (rlaRegs x ++ srcs) [], rla := rlaReg x }

/-- ST (46 R398). A swap towards the Scoreboard is told before the halfword, as the test points have it
(46 R393; the swap tests of 95). -/
def execSt (swap : BitVec 2) (x : Rla) (rsa : Reg) (idx : BitVec 5) (s : State) :
    Host.Outcome State Fault Refusal :=
  let t := targetOf s x idx
  complete s do
    raiseIf (swap.getLsbD 1) .swapUndefined
    sourceCheck .other s ([rsa] ++ rlaRegs x)
    raiseIf (inScoreboard t && swap != 0) .scoreboardSwap
    raiseIf (inScoreboard t) .scoreboardHalfwordStore
    raiseIf (gatherBad t) .gatherOutOfRange
    advanceCheck s s.fq
    stallIf (holdsStore s)
    pure (lsuNext s (storeDone s x [rsa]) [rsa]
      (.store1 t (swapb (swap.getLsbD 0) (readVal .other s rsa))))

/-- STD (46 R399; 43 R300). -/
def execStd (swap : BitVec 2) (x : Rla) (rsa : Reg) (idx : BitVec 5) (rsb : SReg) (s : State) :
    Host.Outcome State Fault Refusal :=
  let t := targetOf s x idx
  let p := pairUp swap (readVal .other s rsa) (readVal .other s (sw rsb))
  complete s do
    sourceCheck .other s ([rsa, sw rsb] ++ rlaRegs x)
    raiseIf (inScoreboard t && swap != 0) .scoreboardSwap
    raiseIf (inScoreboard t && ! s.cssq.isEmpty) .cssConfigBusy
    raiseIf (gatherBad t) .gatherOutOfRange
    advanceCheck s s.fq
    stallIf (holdsStore s)
    pure (lsuNext s (storeDone s x [rsa, sw rsb]) [rsa, sw rsb]
      (.store2 t (swapb (swap.getLsbD 0) p.1) (swapb (swap.getLsbD 0) p.2) false))

/-! ### The load/store unit -/

/-- Slot n[3:0] = 0 is the most significant bit of its entry (20 R111, `sb_bit_order`). -/
def sbMsb (s : State) : Bool :=
  match s.cfg.sbBitOrder with
  | .msbFirst => true
  | .lsbFirst => false
  | .unset => Config.sbMsbFirst

/-- The slot that bit `k` of Scoreboard entry `e` is (43 R291). -/
def sbSlot (msb : Bool) (e k : Nat) : Nat := 16 * e + (if msb then 15 - k else k)

/-- The Scoreboard entry of a local address (20 R111). -/
def sbEntry (t : Half) : Nat := (t.extractLsb' 1 10).toNat

/-- Read a Scoreboard entry; all sixteen bits must have been written. -/
def sbRead (m : Sparse Bool) (msb : Bool) (e : Nat) : Option Half := do
  let bits ← (List.range 16).mapM fun k => Memory.read m (sbSlot msb e k)
  pure ((BitVec.ofBoolListLE bits).setWidth 16)

/-- Write a Scoreboard entry. -/
def sbWrite (m : Sparse Bool) (msb : Bool) (e : Nat) (v : Half) : Sparse Bool :=
  (List.range 16).foldl (fun m k => Memory.write m (sbSlot msb e k) (v.getLsbD k)) m

/-- The halfword at a local address (46 R396). -/
def localRead (s : State) (t : Half) : Option Half :=
  if inScoreboard t then sbRead s.sb (sbMsb s) (sbEntry t) else readHalf s.cb (cbPhys t)

/-- Store a halfword at a local address (46 R398, R399). -/
def localWrite (s : State) (t v : Half) : State :=
  if inScoreboard t then { s with sb := sbWrite s.sb (sbMsb s) (sbEntry t) v }
  else { s with cb := writeHalf s.cb (cbPhys t) v }

/-- The second address of a double access (46 R394). -/
def partner (t : Half) : Half := t ^^^ 2

/-- Read a halfword and write it to a register as a program write would (46 R395 to R397). -/
def landAt (s : State) (t : Half) (r : Reg) (swap : Bool) : Check State :=
  match localRead s t with
  | none => .error (.fault .unwrittenRead)
  | some h => do
    writeCheck s r (swapb swap h)
    .ok (writeReg s s r (swapb swap h))

/-- One access of an operation, with the list without it; the answer says what is left of the
operation (46 R396 to R399). -/
def lsuAccess (s : State) (o : LsuOp) : Check (State × List LsuOp) :=
  match o with
  | .load1 t rd swap => do
    let u ← landAt s t rd swap
    .ok (u, [])
  | .load2 t ra rb swap false => do
    let u ← landAt s t ra swap
    if inScoreboard t then
      let w ← landAt u (partner t) rb swap
      .ok (w, [])
    else .ok (u, [.load2 t ra rb swap true])
  | .load2 t _ rb swap true => do
    let u ← landAt s (partner t) rb swap
    .ok (u, [])
  | .store1 t v => .ok (localWrite s t v, [])
  | .store2 t x y false =>
    if inScoreboard t then .ok (localWrite (localWrite s t x) (partner t) y, [])
    else .ok (localWrite s t x, [.store2 t x y true])
  | .store2 t _ y true => .ok (localWrite s (partner t) y, [])

/-- A step of the load/store unit: one access of the oldest operation (46 R390). -/
def lsuStep (s : State) : Check State :=
  match s.lsu with
  | [] => .error .stall
  | o :: rest => do
    let (u, left) ← lsuAccess s o
    .ok { u with lsu := left ++ rest, draws := s.draws + 1 }

end Sys2Proof.Machine
end

