-- ==== Sys2Proof/Machine/Dma.lean ====
section
/-!
DEFINITION. The DMA instructions and the two DMA controllers (44_dma, 51_ports).
-/
namespace Sys2Proof.Machine

/-! ### Forming the command (44 R323 to R328) -/

/-- A DMA instruction as its word gives it; `port2`, `write` are the `op` field. -/
structure DmaOp where
  port2 : Bool
  write : Bool
  bc : Nat
  rla : Rla
  rsa : Reg
  ibi : Bool
  crcx : Bool := false
  crcy : Bool := false
  pod : Bool
  st : Bool := false
  rsb : SReg
  plus : Bool := false

/-- R52 as the instruction reads it (44 R324). -/
def altCount (s : State) : Half := readVal .dma s 52

/-- The effective CRCX selection: Port2 has none (44 R324). -/
def dmaCx (s : State) (o : DmaOp) : Bool :=
  ! o.port2 && (if o.ibi then o.crcx else (altCount s).getLsbD 9)

/-- The effective CRCY selection (44 R324). -/
def dmaCy (s : State) (o : DmaOp) : Bool :=
  ! o.port2 && (if o.ibi then o.crcy else (altCount s).getLsbD 8)

/-- The byte count before rounding (44 R324). -/
def dmaCount0 (s : State) (o : DmaOp) : Nat :=
  if o.ibi then o.bc else ((altCount s).extractLsb' 0 8).toNat

/-- The effective byte count: only DMA1R keeps an odd one (44 R325). -/
def dmaCount (s : State) (o : DmaOp) : Nat :=
  let n := dmaCount0 s o
  if ! o.port2 && ! o.write then n else n - n % 2

/-- The CRC pair of a command (44 R324). -/
def crcSelOf (cx cy : Bool) : CrcSel := if cx then .x else if cy then .y else .none

/-- The command a DMA instruction issues (44 R323). -/
def dmaCmdOf (s : State) (o : DmaOp) : DmaCmd :=
  { write := o.write, a := readVal .dma s o.rsa, b := readVal .dma s (sw o.rsb),
    l := rlaVal .dma s o.rla, n := dmaCount s o, crcSel := crcSelOf (dmaCx s o) (dmaCy s o),
    pod := o.pod, silent := o.st, started := false, pos := 0, crc := 0 }

/-- The Port1 byte address of byte `k` (51 R461). -/
def port1Addr (c : DmaCmd) (k : Nat) : Nat := c.a.toNat * 0x10000 + (c.b.toNat + k) % 0x10000

/-- A Port2 command is a burst (51 R463). -/
def isBurst (c : DmaCmd) : Bool := c.a.getLsbD 7

/-- The Port2 halfword address of a command (51 R463, R464). -/
def port2Half (c : DmaCmd) : Nat :=
  if isBurst c then (c.a.extractLsb' 0 5 ++ c.b.extractLsb' 1 15 : BitVec 20).toNat
  else (c.a.extractLsb' 5 2 ++ c.a.extractLsb' 0 5 ++ c.b.extractLsb' 5 11 : BitVec 18).toNat

/-- The faults of a command's local address (44 R323, R328; 20 R110). A zero-byte command decodes no
byte, and no gather address of it is out of range (log 55). -/
def dmaLocalCheck (c : DmaCmd) : Check Unit := do
  raiseIf (inScoreboard c.l) .operandClass
  raiseIf (c.n != 0 && gatherBad c.l) .gatherOutOfRange
  raiseIf (if c.l.getLsbD 10 then decide (128 < c.l.toNat % 128 + c.n)
    else decide (1024 < c.l.toNat % 1024 + c.n)) .dmaLocalRange

/-- A zero-byte silent transfer without CRC and POD: it only waits for a queue place (44 R334(c)). -/
def dmaDiscarded (c : DmaCmd) : Bool :=
  c.silent && c.n == 0 && c.crcSel == .none && ! c.pod

/-- The three silent forms (44 R334). -/
def silentCheck (c : DmaCmd) : Check Unit :=
  if dmaDiscarded c then .ok ()
  else if c.crcSel = .none ∨ c.n = 0 then .error (.fault .silentReadForm)
  else if c.write then raiseIf (c.l.getLsbD 0) .dmaAlignment
  else raiseIf (c.n != 4 || c.l.getLsbD 0) .silentReadForm

/-- The faults of a Port1 command (44 R330, R331, R334; 51 R461). -/
def port1Check (c : DmaCmd) : Check Unit :=
  if c.silent then silentCheck c
  else do
    raiseIf (c.write && (c.l.getLsbD 0 || c.b.getLsbD 0)) .dmaAlignment
    raiseIf (decide (0x10000 < c.b.toNat + c.n)) .port1Cross64K

/-- The faults of a Port2 command (44 R332; 51 R463). -/
def port2Check (c : DmaCmd) : Check Unit := do
  raiseIf (c.l.getLsbD 0) .dmaAlignment
  raiseIf (! isBurst c && c.n != 2) .port2NonBurstCount
  raiseIf (isBurst c && decide (0x100000 < port2Half c + c.n / 2)) .port2AddressRange

/-- A "+" form must name a register (10 R49; 44 R327). -/
def plusCheck (o : DmaOp) : Check Unit :=
  raiseIf (o.plus && (rlaReg o.rla).isNone) .rlaConstantIncrement

/-- The register of a "+" form must be free for its increment (44 R327; 70 R565(b)). -/
def plusFreeCheck (s : State) (o : DmaOp) : Check Unit :=
  match o.plus, rlaReg o.rla with
  | true, some r => do
    raiseIf ((plusOf s r).isSome) .rlaIncrementHazard
    raiseIf (s.rlaTrap == some r) .loadHardwareRegisterHazard
  | _, _ => .ok ()

/-- The commands of a port (44 R321). -/
def queueOf (s : State) (port2 : Bool) : List DmaCmd := if port2 then s.q2 else s.q1

/-- Reserved settings of the word's own Control field (44 R326). -/
def controlCheck (s : State) (o : DmaOp) : Check Unit := do
  raiseIf (s.cfg.strictReserved && ! o.ibi && (o.bc != 0 || o.crcx || o.crcy)) .reservedEncoding
  raiseIf (! o.port2 && o.ibi && o.crcx && o.crcy) .reservedEncoding

/-- The reserved setting of R52, looked at once R52 can be read (44 R326; 70 R563(b)). -/
def altCheck (s : State) (o : DmaOp) : Check Unit :=
  raiseIf (! o.ibi && dmaCx s o && dmaCy s o) .reservedEncoding

/-- The registers of a CRC pair (44 R335). -/
def pairRegs (sel : CrcSel) : List Reg :=
  match sel with
  | .none => []
  | .x => [44, 45]
  | .y => [46, 47]

/-- The reads of a DMA instruction: the CRC pair that its command takes over is the last of its implicit
operands (44 R323, R335; 45 R364; 70 R561). -/
def dmaReadCheck (s : State) (o : DmaOp) : Check Unit := do
  sourceCheck .dma s ([o.rsa, sw o.rsb] ++ rlaRegs o.rla)
  if o.plus || decide (128 ≤ o.bc) then modeRead s 5
  if ! o.ibi then readCheck .dma s 52
  if o.pod then impliedUse s 62 2
  (pairRegs (dmaCmdOf s o).crcSel).forM (accessOne s)

/-- Everything a DMA instruction checks, in the order of 60 R523 (44 R320, R330 to R334). -/
def dmaCheck (s : State) (o : DmaOp) : Check Unit := do
  controlCheck s o
  plusCheck o
  dmaReadCheck s o
  plusFreeCheck s o
  altCheck s o
  dmaLocalCheck (dmaCmdOf s o)
  if o.port2 then port2Check (dmaCmdOf s o) else port1Check (dmaCmdOf s o)
  advanceCheck s s.fq
  stallIf (decide (3 ≤ (queueOf s o.port2).length))

/-- The "+" increment, 64 modulo 512 (44 R327). -/
def plusNew (v : Half) : Half :=
  (v.extractLsb' 9 7 ++ (v.extractLsb' 0 9 + 64) : BitVec 16)

/-- Append a command to its port's list (44 R320 step 5). -/
def enqueue (t : State) (port2 : Bool) (c : DmaCmd) : State :=
  if port2 then { t with q2 := t.q2 ++ [c] }
  else if dmaDiscarded c then t
  else { t with q1 := t.q1 ++ [c] }

/-- Capture the link address in the holding registers (44 R338). -/
def captureHold (t : State) (c : DmaCmd) : State :=
  match c.crcSel with
  | .none => t
  | .x => { t with holdX := linkAddr t }
  | .y => { t with holdY := linkAddr t }

/-- The increment a DMA instruction schedules (44 R327). -/
def plusOfOp (s : State) (o : DmaOp) : List PlusInc :=
  if o.plus then
    (rlaReg o.rla).toList.map fun r => { r := r, new := plusNew (rlaVal .dma s o.rla), age := 0 }
  else []

/-- The registers a DMA instruction accesses, its implied operands among them (44 R323, R324; 45
R364). -/
def dmaRegs (s : State) (o : DmaOp) : List Reg :=
  accessed s ([o.rsa, sw o.rsb] ++ rlaRegs o.rla) [] ++ (if o.ibi then [] else [52]) ++
    (if o.plus || decide (128 ≤ o.bc) then [42] else []) ++ (if o.pod then [62] else []) ++
    pairRegs (dmaCmdOf s o).crcSel

/-- The state after a DMA instruction (44 R320). -/
def dmaNext (s : State) (o : DmaOp) : State :=
  let c := dmaCmdOf s o
  let srcs := [o.rsa, sw o.rsb]
  let t := readEffects (tick s { acc := dmaRegs s o, rla := rlaReg o.rla }) srcs
  let t := captureHold (enqueue t o.port2 c) c
  let t := { t with
    plus := t.plus ++ plusOfOp s o
    dmaLag := some (if o.port2 then 1 else 0, (queueOf s o.port2).length) }
  advance t s.fq

/-- Run a DMA instruction (44 R320). -/
def runDma (s : State) (o : DmaOp) : Host.Outcome State Fault Refusal :=
  complete s do
    dmaCheck s o
    pure (dmaNext s o)

/-- DMA1R (44 R330). -/
def execDma1r (bc : BitVec 8) (rla : Rla) (rsa : Reg) (ibi crcx crcy pod st : Bool) (rsb : SReg)
    (s : State) : Host.Outcome State Fault Refusal :=
  runDma s { port2 := false, write := false, bc := bc.toNat, rla := rla, rsa := rsa, ibi := ibi,
             crcx := crcx, crcy := crcy, pod := pod, st := st, rsb := rsb }

/-- DMA1W (44 R331). -/
def execDma1w (bc : BitVec 8) (rla : Rla) (rsa : Reg) (ibi crcx crcy pod st : Bool) (rsb : SReg)
    (s : State) : Host.Outcome State Fault Refusal :=
  runDma s { port2 := false, write := true, bc := bc.toNat, rla := rla, rsa := rsa, ibi := ibi,
             crcx := crcx, crcy := crcy, pod := pod, st := st, rsb := rsb }

/-- DMA2R (44 R332). -/
def execDma2r (bc : BitVec 8) (rla : Rla) (rsa : Reg) (ibi pod : Bool) (rsb : SReg) (s : State) :
    Host.Outcome State Fault Refusal :=
  runDma s { port2 := true, write := false, bc := bc.toNat, rla := rla, rsa := rsa, ibi := ibi,
             pod := pod, rsb := rsb }

/-- DMA2W (44 R333). -/
def execDma2w (bc : BitVec 8) (rla : Rla) (rsa : Reg) (ibi pod : Bool) (rsb : SReg) (s : State) :
    Host.Outcome State Fault Refusal :=
  runDma s { port2 := true, write := true, bc := bc.toNat, rla := rla, rsa := rsa, ibi := ibi,
             pod := pod, rsb := rsb }

/-- DMA1R+ (44 R327, R330). -/
def execDma1rPlus (bc : BitVec 7) (rla : Rla) (rsa : Reg) (ibi crcx crcy pod st : Bool)
    (rsb : SReg) (s : State) : Host.Outcome State Fault Refusal :=
  runDma s { port2 := false, write := false, bc := bc.toNat, rla := rla, rsa := rsa, ibi := ibi,
             crcx := crcx, crcy := crcy, pod := pod, st := st, rsb := rsb, plus := true }

/-- DMA1W+ (44 R327, R331). -/
def execDma1wPlus (bc : BitVec 7) (rla : Rla) (rsa : Reg) (ibi crcx crcy pod st : Bool)
    (rsb : SReg) (s : State) : Host.Outcome State Fault Refusal :=
  runDma s { port2 := false, write := true, bc := bc.toNat, rla := rla, rsa := rsa, ibi := ibi,
             crcx := crcx, crcy := crcy, pod := pod, st := st, rsb := rsb, plus := true }

/-- DMA2R+ (44 R327, R332). -/
def execDma2rPlus (bc : BitVec 7) (rla : Rla) (rsa : Reg) (ibi pod : Bool) (rsb : SReg)
    (s : State) : Host.Outcome State Fault Refusal :=
  runDma s { port2 := true, write := false, bc := bc.toNat, rla := rla, rsa := rsa, ibi := ibi,
             pod := pod, rsb := rsb, plus := true }

/-- DMA2W+ (44 R327, R333). -/
def execDma2wPlus (bc : BitVec 7) (rla : Rla) (rsa : Reg) (ibi pod : Bool) (rsb : SReg)
    (s : State) : Host.Outcome State Fault Refusal :=
  runDma s { port2 := true, write := true, bc := bc.toNat, rla := rla, rsa := rsa, ibi := ibi,
             pod := pod, rsb := rsb, plus := true }

/-! ### The controllers -/

/-- A byte a port supplies: what its space holds, an open value where nobody has written (51 R473,
log 17). -/
def portByte (s : State) (m : Sparse Byte) (a site : Nat) : Byte :=
  (Memory.read m a).getD (drawByte s site)

/-- The selected CRC pair (44 R335). -/
def crcPair (s : State) (sel : CrcSel) : BitVec 32 :=
  match sel with
  | .none => 0
  | .x => crcX s
  | .y => crcY s

/-- Put a value into a CRC pair (44 R335; 10 R47). -/
def setCrcPair (s : State) (sel : CrcSel) (c : BitVec 32) : State :=
  match sel with
  | .none => s
  | .x => { s with regs := (s.regs.set 44 (c.extractLsb' 0 16)).set 45 (c.extractLsb' 16 16) }
  | .y => { s with regs := (s.regs.set 46 (c.extractLsb' 0 16)).set 47 (c.extractLsb' 16 16) }

/-- One halfword into the running CRC, when a pair is selected (44 R335). -/
def crcFeed (s : State) (c : DmaCmd) (h : Half) : BitVec 32 :=
  if c.crcSel = .none then c.crc else crc32Step s.cfg c.crc h

/-- The local byte address `L + k` as a halfword (44 R328). -/
def dmaLocal (c : DmaCmd) (k : Nat) : Half := c.l + BitVec.ofNat 16 k

/-- Write a Cell Buffer halfword at a local address (20 R110). -/
def cbWrite (s : State) (t v : Half) : State := { s with cb := writeHalf s.cb (cbPhys t) v }

/-- Make a Cell Buffer halfword at a local address unwritten again (44 R336; 92 D55). -/
def cbForget (s : State) (t : Half) : State :=
  { s with cb := Memory.erase (Memory.erase s.cb (cbPhys t)) (cbPhys t + 1) }

/-- Port1 read of one halfword, or of a last byte, which is set aside: the halfword it belongs to is
unwritten until a later transfer completes it or a store rewrites it (44 R336; 92 D55; log 47). -/
def dma1ReadMove (s : State) (c : DmaCmd) : State × DmaCmd :=
  let b0 := portByte s s.p1 (port1Addr c c.pos) 26
  if c.l.getLsbD 0 && c.pos == 0 then
    let h := halfOf (s.residue.getD (drawByte s 28)) b0
    (cbWrite s (c.l - 1) h, { c with pos := 1, crc := crcFeed s c h })
  else if c.pos + 1 = c.n then
    ({ cbForget s (dmaLocal c c.pos) with residue := some b0 }, { c with pos := c.n })
  else
    let h := halfOf b0 (portByte s s.p1 (port1Addr c (c.pos + 1)) 27)
    (cbWrite s (dmaLocal c c.pos) h, { c with pos := c.pos + 2, crc := crcFeed s c h })

/-- A write takes a Cell Buffer halfword: to the port, or silently only to the CRC (44 R331,
R334(a)). -/
def dma1WriteMove (s : State) (c : DmaCmd) : Check (State × DmaCmd) :=
  match readHalf s.cb (cbPhys (dmaLocal c c.pos)) with
  | none => .error (.fault .unwrittenRead)
  | some h =>
    let t := if c.silent then s else { s with p1 := writeHalf s.p1 (port1Addr c c.pos) h }
    .ok (t, { c with pos := c.pos + 2, crc := crcFeed s c h })

/-- A silent read stores the complement of the partial result (44 R334(b)). -/
def silentReadMove (s : State) (c : DmaCmd) : State × DmaCmd :=
  let v := ~~~ (if c.pos = 0 then c.crc.extractLsb' 16 16 else c.crc.extractLsb' 0 16)
  (cbWrite s (dmaLocal c c.pos) v, { c with pos := c.pos + 2 })

/-- One data movement of a Port1 command (44 R328). -/
def dma1Move (s : State) (c : DmaCmd) : Check (State × DmaCmd) :=
  if c.write then dma1WriteMove s c
  else if c.silent then .ok (silentReadMove s c)
  else .ok (dma1ReadMove s c)

/-- The directive performed at completion (44 R337). -/
def podApply (s : State) (c : DmaCmd) : Check State :=
  if c.pod then
    if c.write then
      if s.rxfull = 0 then .error (.fault .counterRange)
      else .ok { s with rxfull := s.rxfull - 1 }
    else if txSizeOf s.regs[62] ≤ s.txbusy then .error (.fault .counterRange)
    else .ok { s with txbusy := s.txbusy + 1 }
  else .ok s

/-- The CRC pair after a command: its running value, or open after a silent read (44 R334(b),
R335). -/
def crcDone (s : State) (c : DmaCmd) : State :=
  setCrcPair s c.crcSel
    (if c.silent && ! c.write then (draw s 30 ++ draw s 31 : BitVec 32) else c.crc)

/-- A step of the Port1 controller: start, move or complete the active command (44 R322, R335). -/
def dma1Step (s : State) : Check State :=
  match s.q1 with
  | [] => .error .stall
  | c :: rest => do
    if ! c.started then
      .ok { s with q1 := { c with started := true, crc := crcPair s c.crcSel } :: rest,
                   draws := s.draws + 1 }
    else if c.pos < c.n then
      let (t, d) ← dma1Move s c
      .ok { t with q1 := d :: rest, draws := s.draws + 1 }
    else
      let t ← podApply (crcDone s c) c
      .ok { t with q1 := rest, draws := s.draws + 1 }

/-- Where an aborted transfer ends: with the data cycle after the last one any byte of which has been
moved, or after the first one when none has (51 R467). -/
def abortEnd (c : DmaCmd) : Nat :=
  let e := c.b.toNat + c.pos
  let last := if e % 4 = 0 ∧ c.pos ≠ 0 then e + 4 else (e / 4 + 2) * 4
  Nat.min c.n (last - c.b.toNat)

/-- P1ABORT_ shortens the active Port1 command (51 R467). -/
def abortStep (s : State) : Check State :=
  match s.q1 with
  | [] => .error .stall
  | c :: rest =>
    if c.started && ! c.silent && decide (c.pos < c.n) then
      .ok { s with q1 := { c with n := abortEnd c } :: rest, draws := s.draws + 1 }
    else .error .stall

/-- The Port2 space of a command (51 R464). -/
def port2Space (s : State) (c : DmaCmd) : Sparse Byte := if isBurst c then s.p2b else s.p2n

/-- Change the Port2 space of a command. -/
def setPort2 (s : State) (c : DmaCmd) (m : Sparse Byte) : State :=
  if isBurst c then { s with p2b := m } else { s with p2n := m }

/-- One data movement of a Port2 command (44 R332, R333). -/
def dma2Move (s : State) (c : DmaCmd) : Check (State × DmaCmd) :=
  let a := 2 * port2Half c + c.pos
  let d := { c with pos := c.pos + 2 }
  if c.write then
    match readHalf s.cb (cbPhys (dmaLocal c c.pos)) with
    | none => .error (.fault .unwrittenRead)
    | some h => .ok (setPort2 s c (writeHalf (port2Space s c) a h), d)
  else
    let m := port2Space s c
    .ok (cbWrite s (dmaLocal c c.pos) (halfOf (portByte s m a 26) (portByte s m (a + 1) 27)), d)

/-- A step of the Port2 controller (44 R322; 10 R80). -/
def dma2Step (s : State) : Check State :=
  match s.q2 with
  | [] => .error .stall
  | c :: rest => do
    if ! c.started then
      .ok { s with q2 := { c with started := true } :: rest, draws := s.draws + 1 }
    else if c.pos < c.n then
      let (t, d) ← dma2Move s c
      .ok { t with q2 := d :: rest, draws := s.draws + 1 }
    else
      let t ← podApply s c
      .ok { t with q2 := rest, dma2Count := s.dma2Count + 1, draws := s.draws + 1 }

end Sys2Proof.Machine
end

