-- ==== Sys2Proof/Machine/Utopia.lean ====
section
/-!
DEFINITION. The UTOPIA receiver and transmitter (50_utopia).
-/
namespace Sys2Proof.Machine

/-! ### The wire -/

/-- HEC is generated and checked (50 R424). -/
def hecOn (s : State) : Bool := ! modeBit s 0

/-- The octets of a cell without the HEC (50 R424). -/
def cellLength (s : State) : Nat := if modeBit s 1 then 56 else 52

/-- The octets after the header that are not stored: HEC and stuffer (50 R425). -/
def extraOctets (s : State) : Nat :=
  if hecOn s then (if s.regs[62].getLsbD 8 then 1 else 2) else 0

/-- The index of the first SAR PDU octet of a cell image (50 R425). -/
def sarStart (img : List Byte) : Nat := img.length - 48

/-- Octet `k` of a cell image. -/
def octet (img : List Byte) (k : Nat) : Byte := img.getD k 0

/-- Octet `k` of the ATM Header, the four octets before the SAR PDU (50 R425). -/
def headerByte (img : List Byte) (k : Nat) : Byte := octet img (sarStart img - 4 + k)

/-- The four ATM Header octets as HEC8 takes them (50 R429). -/
def headerWord (img : List Byte) : BitVec 32 :=
  wordOf (headerByte img 0) (headerByte img 1) (headerByte img 2) (headerByte img 3)

/-- The most significant PHY address (50 R436). -/
def topPhy (s : State) : BitVec 5 := s.regs[62].extractLsb' 9 5

/-- Where a cell image lies in its holder: 52-byte cells begin at offset 4 (20 R113). -/
def imageOffset (len : Nat) : Nat := if len = 52 then 4 else 0

/-! ### The receiver -/

/-- The cell image of a wire cell (50 R427). -/
def imageOf (s : State) (octets : List Byte) : List Byte :=
  octets.take (cellLength s - 48) ++ octets.drop (cellLength s - 48 + extraOctets s)

/-- Accept an offered wire cell (50 R427, R436). -/
def rxAccept (s : State) (phy : BitVec 5) (octets : List Byte) : Check State :=
  if rxSizeOf s.regs[62] != 0 && s.rxCell.isNone && decide (s.rxfull < rxSizeOf s.regs[62]) &&
      decide (phy.toNat ≤ (topPhy s).toNat) &&
      octets.length == cellLength s + extraOctets s then
    .ok { s with
      rxCell := some { phy := phy, img := imageOf s octets,
                       hec := if hecOn s then some (octet octets (cellLength s - 48)) else none,
                       k := 0 }
      draws := s.draws + 1 }
  else .error .stall

/-- The lowest set bit of a reduction mask and the number of its set bits (50 R428). -/
def maskShape (m : BitVec 7) : Option (Nat × Nat) :=
  let n := ((List.range 7).filter fun k => m.getLsbD k).length
  match (List.range 7).find? fun k => m.getLsbD k with
  | none => none
  | some p =>
    if m.toNat = (2 ^ n - 1) * 2 ^ p ∧ n ≤ 4 ∧ n + p ≤ 7 then some (p, n) else none

/-- The low `n` bits of a value as a halfword. -/
def lowBits (v : Half) (n : Nat) : Half := v &&& lowMask n

/-- The VPI of a header, ATM UNI layout (50 R428). -/
def headerVpi (img : List Byte) : Half :=
  (((headerByte img 0).extractLsb' 0 4 ++ (headerByte img 1).extractLsb' 4 4 :
    BitVec 8)).zeroExtend 16

/-- The VCI of a header (50 R428). -/
def headerVci (img : List Byte) : Half :=
  ((headerByte img 1).extractLsb' 0 4 ++ headerByte img 2 ++ (headerByte img 3).extractLsb' 4 4 :
    BitVec 16)

/-- The CLP bit of a header as a halfword (50 R428). -/
def headerClp (img : List Byte) : Half := ((headerByte img 3).extractLsb' 0 1).zeroExtend 16

/-- The reduced halfword of ATM Header bytes 2 and 3 (50 R428; 10 R68). -/
def reduce (m : BitVec 7) (img : List Byte) : Check Half :=
  if m = 0 then .ok (headerVci img <<< 1 ||| headerClp img)
  else match maskShape m with
    | none => .error (.fault .reservedReductionMask)
    | some (p, n) =>
      .ok (lowBits (headerVpi img) n <<< (9 + p) ||| lowBits (headerVci img) (8 + p) <<< 1 |||
        headerClp img)

/-- The halfword the receiver stores next (50 R427). -/
def rxHalf (s : State) (c : RxCell) : Check Half :=
  if s.regs[62].getLsbD 0 && 2 * c.k + 2 == sarStart c.img then
    reduce (s.regs[63].extractLsb' 0 7) c.img
  else .ok (halfOf (octet c.img (2 * c.k)) (octet c.img (2 * c.k + 1)))

/-- The 48 SAR PDU octets (50 R431). -/
def sarPdu (img : List Byte) : List Byte := img.drop (sarStart img)

/-- HE: the received HEC is wrong; open when HEC is omitted (50 R429). -/
def hecError (s : State) (c : RxCell) : Bool :=
  match c.hec with
  | some h => h != hec8 s.cfg (headerWord c.img)
  | none => drawBit s 32

/-- The Receive Cell Status word (50 R429). -/
def statusWord (s : State) (c : RxCell) : Half :=
  ((draw s 33).extractLsb' 0 6 ++ BitVec.ofBool (hecError s c) ++
    BitVec.ofBool (crc10 s.cfg (sarPdu c.img) != 0) ++
    (headerByte c.img 3).extractLsb' 1 3 ++ c.phy : BitVec 16)

/-- Where the status word of a cell goes in its holder (50 R429; 20 R113). -/
def statusOffset (len : Nat) : Nat := if len = 52 then 2 else 0x38

/-- The receiver stores one halfword of the cell in progress (50 R427). -/
def rxStore (s : State) (c : RxCell) : Check State := do
  let v ← rxHalf s c
  .ok { s with
    cb := writeHalf s.cb (64 * s.rxIdx + imageOffset c.img.length + 2 * c.k) v
    rxCell := some { c with k := c.k + 1 }
    draws := s.draws + 1 }

/-- The receiver finishes the cell in progress (50 R427, R432, R433). -/
def rxFinish (s : State) (c : RxCell) : Check State := do
  raiseIf (decide (rxSizeOf s.regs[62] ≤ s.rxbusy)) .counterRange
  raiseIf (decide (rxSizeOf s.regs[62] ≤ s.rxfull)) .counterRange
  .ok { s with
    cb := writeHalf s.cb (64 * s.rxIdx + statusOffset c.img.length) (statusWord s c)
    rxbusy := s.rxbusy + 1
    rxfull := s.rxfull + 1
    rxIdx := (s.rxIdx + 1) % rxSizeOf s.regs[62]
    rxCell := none
    draws := s.draws + 1 }

/-- A step of the receiver with a cell in progress (50 R427). -/
def rxStep (s : State) : Check State :=
  match s.rxCell with
  | none => .error .stall
  | some c => if 2 * c.k < c.img.length then rxStore s c else rxFinish s c

/-! ### The transmitter -/

/-- TXPHY of a control entry (50 R431). -/
def entryPhy (e : BitVec 7) : BitVec 5 := e.extractLsb' 0 5

/-- CG of a control entry (50 R431). -/
def entryCg (e : BitVec 7) : Bool := e.getLsbD 5

/-- I of a control entry (50 R431). -/
def entryI (e : BitVec 7) : Bool := e.getLsbD 6

/-- Octet `k` of an unassigned cell, by the parameter: a zero ATM Header and every other octet drawn
is its default (50 R431). -/
def unassignedOctet (s : State) (k : Nat) : Byte :=
  match s.cfg.unassigned with
  | .zeroHeader =>
    if cellLength s - 52 ≤ k ∧ k < cellLength s - 48 then 0 else drawByte s (200 + k)
  | .given l52 l56 => octet (if cellLength s = 52 then l52 else l56) k
  | .unspecified => Config.unassignedOctet (cellLength s) k

/-- The octets of an unassigned cell (50 R431). -/
def unassignedCell (s : State) : List Byte := (List.range (cellLength s)).map (unassignedOctet s)

/-- Start the transmission of a cell to a PHY that can take it (50 R430, R436). -/
def txStart (s : State) (phy : BitVec 5) : Check State := do
  let e := s.fifo[s.fifoRd]
  if txSizeOf s.regs[62] != 0 && s.txCell.isNone && s.txbusy != 0 && entryPhy e == phy then
    raiseIf (decide ((topPhy s).toNat < phy.toNat)) .utopiaConfig
    .ok { s with
      txbusy := s.txbusy - 1
      fifoRd := s.fifoRd + 1
      txCell := some (if entryI e then
          { entry := e, img := unassignedCell s, k := cellLength s / 2 }
        else { entry := e, img := [], k := 0 })
      draws := s.draws + 1 }
  else .error .stall

/-- The transmitter reads one halfword of its holder (50 R430). -/
def txFetch (s : State) (c : TxCell) : Check State :=
  match readHalf s.cb (0x200 + 64 * s.txIdx + imageOffset (cellLength s) + 2 * c.k) with
  | none => .error (.fault .unwrittenRead)
  | some v => .ok { s with
      txCell := some { c with img := c.img ++ [v.extractLsb' 8 8, v.extractLsb' 0 8],
                              k := c.k + 1 }
      draws := s.draws + 1 }

/-- Replace the last ten bits of a cell by their CRC10 (50 R431). -/
def insertCrc10 (s : State) (img : List Byte) : List Byte :=
  let n := img.length
  let cleared := (img.set (n - 2) (octet img (n - 2) &&& 0xFC)).set (n - 1) 0
  let c := crc10 s.cfg (sarPdu cleared)
  (cleared.set (n - 2) ((octet cleared (n - 2)) ||| (c.extractLsb' 8 2).zeroExtend 8)).set (n - 1)
    (c.extractLsb' 0 8)

/-- The octets on the wire (50 R425). -/
def wireOf (s : State) (img : List Byte) : List Byte :=
  let h := sarStart img
  let extra := if hecOn s then
      hec8 s.cfg (headerWord img) :: (if s.regs[62].getLsbD 8 then [] else [drawByte s 34])
    else []
  img.take h ++ extra ++ img.drop h

/-- The transmitter hands the cell over (50 R430, R435). -/
def txFinish (s : State) (c : TxCell) : Check State := do
  raiseIf (s.txfull == 0) .counterRange
  let img := if entryCg c.entry && ! entryI c.entry then insertCrc10 s c.img else c.img
  let stay := entryI c.entry && ! s.cfg.txInsertAdvancesHolder
  .ok { s with
    sent := { phy := entryPhy c.entry, octets := wireOf s img } :: s.sent
    txfull := s.txfull - 1
    txIdx := if stay then s.txIdx else (s.txIdx + 1) % txSizeOf s.regs[62]
    txCell := none
    draws := s.draws + 1 }

/-- A step of the transmitter with a cell in progress (50 R430). -/
def txStep (s : State) : Check State :=
  match s.txCell with
  | none => .error .stall
  | some c => if 2 * c.k < cellLength s then txFetch s c else txFinish s c

end Sys2Proof.Machine
end

