-- ==== Sys2Proof/Machine/Devices.lean ====
section
/-!
DEFINITION. The interval timers (60 R530, R531), the ICS latch and pins (52 R498, R499), the host's
side of the mailbox (52 R493) and the other masters of the ports (51 R473).
-/
namespace Sys2Proof.Machine

/-! ### The timers -/

/-- PIT0 is enabled by mode bit 11, PIT1 by mode bit 10 (60 R531). -/
def pitEnabled (s : State) (k : Fin 2) : Bool := modeBit s (11 - k.val)

/-- The ICSI pin that clocks a timer, if one does (60 R531; 10 R46). -/
def pitPin (s : State) (k : Fin 2) : Option Nat :=
  if modeBit s 8 && s.opts.getLsbD (2 + k.val) && s.opts.getLsbD (4 + k.val) then some (3 - k.val)
  else none

/-- The rising edges that a timer's ICSI pin has made and no tick has used (60 R531; log 30). -/
def pitEdges (s : State) (k : Fin 2) : Nat := if k = 0 then s.pitEdges0 else s.pitEdges1

/-- A clock event can happen: with an ICSI clock it needs a rising edge of the pin (60 R531). -/
def pitEdge (s : State) (k : Fin 2) : Bool := (pitPin s k).isNone || decide (0 < pitEdges s k)

/-- A clock event of an ICSI clock uses one rising edge of the pin (60 R531). -/
def pitUse (s : State) (k : Fin 2) : State :=
  if (pitPin s k).isNone then s
  else if k = 0 then { s with pitEdges0 := s.pitEdges0 - 1 }
  else { s with pitEdges1 := s.pitEdges1 - 1 }

/-- The initialization value of a timer (10 R81). -/
def pitInit (s : State) (k : Fin 2) : Half := if k = 0 then s.pitInit0 else s.pitInit1

/-- The count of a timer: R54 or R55 (60 R531). -/
def pitCount (s : State) (k : Fin 2) : Half := if k = 0 then s.regs[54] else s.regs[55]

/-- The count after a clock event, and whether the event bit is set (60 R530, R531). -/
def pitCountdown (reloadAtZero : Bool) (c init : Half) : Half × Bool :=
  if reloadAtZero then
    if c.toNat ≤ 1 then (init, true) else (c - 1, false)
  else if c = 0 then (init, false)
  else (c - 1, c == 1)

/-- Put a timer's count back. -/
def setPitCount (s : State) (k : Fin 2) (c : Half) : State :=
  if k = 0 then setReg s 54 c else setReg s 55 c

/-- Set event bit `b` of R57 (10 R61). -/
def setEvent (s : State) (b : Nat) (on : Bool) : State :=
  if on then { s with regs := s.regs.set 57 (putBit s.regs[57] b true) } else s

/-- A clock event of a timer (60 R531). -/
def pitStep (s : State) (k : Fin 2) : Check State :=
  if pitEnabled s k && pitEdge s k then
    if pitInit s k = 0 then .error (.fault .pitZeroPeriod)
    else
      let r := pitCountdown s.cfg.pitReloadAtZero (pitCount s k) (pitInit s k)
      let t := setEvent (setPitCount (pitUse s k) k r.1) (4 + k.val) r.2
      .ok { t with draws := s.draws + 1 }
  else .error .stall

/-! ### Inter-chip signalling -/

/-- One when pin `b` rises from `old` to `new`. -/
def pinRise (old new : BitVec 4) (b : Nat) : Nat := if ! old.getLsbD b && new.getLsbD b then 1 else 0

/-- The ICSI pins take new levels (52 R498); each rise of ICSI_D or ICSI_C is an edge that PIT0 or PIT1
may be clocked by (60 R531; log 30). -/
def icsiStep (s : State) (pins : BitVec 4) : State :=
  { s with icsi := pins,
           pitEdges0 := s.pitEdges0 + pinRise s.icsi pins 3,
           pitEdges1 := s.pitEdges1 + pinRise s.icsi pins 2, draws := s.draws + 1 }

/-- The enabled pins that were high at two successive samples (52 R498). -/
def icsLatched (s : State) : BitVec 4 := s.icsi &&& s.icsiPrev &&& s.regs[63].extractLsb' 8 4

/-- The ICS latch samples its pins (52 R498). -/
def icsLatchStep (s : State) : State :=
  { s with regs := s.regs.set 57 (s.regs[57] ||| (icsLatched s).zeroExtend 16),
           icsiPrev := s.icsi, draws := s.draws + 1 }

/-- The level of ICSO pin `k` (A to D), none while the pins are not driven; the two internal signals
that may replace A and B are open (52 R499). -/
def icsoPin (s : State) (k : Fin 4) : Option Bool :=
  if ! s.regs[63].getLsbD 7 then none
  else if k = 0 ∧ s.regs[57].getLsbD 11 then some (drawBit s 35)
  else if k = 1 ∧ s.regs[57].getLsbD 10 then some (drawBit s 36)
  else some (s.regs[57].getLsbD (12 + k.val))

/-! ### The host and the other masters -/

/-- The mailbox register COMM (52 R490). -/
def comm (s : State) : BitVec 32 := s.regs[40] ++ s.regs[41]

/-- The host writes COMMIN (52 R493). -/
def comminStep (s : State) (v : BitVec 32) : State :=
  { s with regs := (s.regs.set 40 (v.extractLsb' 16 16)).set 41 (v.extractLsb' 0 16),
           cinBusy := true, draws := s.draws + 1 }

/-- The host reads COMMOUT: it sees `comm` and the flag is cleared (52 R493). -/
def commoutStep (s : State) : State := { s with coutRdy := false, draws := s.draws + 1 }

/-- Another master writes a byte of the Port1 space (51 R473). -/
def p1PokeStep (s : State) (a : Nat) (b : Byte) : Check State :=
  if a < 2 ^ 32 then .ok { s with p1 := Memory.write s.p1 a b, draws := s.draws + 1 }
  else .error .stall

/-- Another master writes a byte of a Port2 space (51 R473). -/
def p2PokeStep (s : State) (burst : Bool) (a : Nat) (b : Byte) : Check State :=
  if burst then
    if a < 2 ^ 21 then .ok { s with p2b := Memory.write s.p2b a b, draws := s.draws + 1 }
    else .error .stall
  else if a < 2 ^ 19 then .ok { s with p2n := Memory.write s.p2n a b, draws := s.draws + 1 }
  else .error .stall

end Sys2Proof.Machine
end

