-- ==== Sys2Proof/Machine/Boot.lean ====
section
/-!
DEFINITION. The function Boot: from an image to the state at the first user instruction (70 R550 to
R558).
-/
namespace Sys2Proof.Machine

/-- The most instructions a boot path can load; none for COMMIN (70 R555(c)). -/
def bootLimit (src : BitVec 2) : Option Nat :=
  match src.toNat with
  | 1 => some 4096
  | 2 => some 512
  | _ => none

/-- The first word of an image is `LIMD R36, #boot_value` (70 R554). -/
def isBootWord (hi lo : Half) : Bool := hi == 0xFE40 && lo &&& 0xFF00 == 0

/-- The boot value of an image: the low byte of its first word (70 R554). -/
def bootValue (code : List Half) : Half := code.getD 1 0

/-- Every limit of R558, in its order, and that the count of halfwords fits its two bytes (70 R554). -/
def bootChecks (c : Config) (a : BitVec 16) (code : List Half) : List Bool :=
  let h := code.length
  let zz := bootValue code
  [ c.bootSource == 0,
    h % 2 == 1 || h == 0 || decide (0x10000 ≤ h),
    (match bootLimit c.bootSource with
      | some n => decide (n < h / 2)
      | none => false),
    ! isBootWord (code.getD 0 0) zz,
    zz &&& 0x000C != 0,
    a.extractLsb' 11 4 == 0xF,
    zz.getLsbD 4 && a.extractLsb' 0 15 != 0,
    decide (Nat.min (fmBytes c.fmSize) 0x80000 < 4 * a.toNat + 2 * h) ]

/-- The checksum delivered to COMMOUT: the parameter `boot_checksum`, by default the sum of the
halfwords of fields 1, 2 and 3 (70 R553). -/
def bootChecksum (c : Config) (a : BitVec 16) (code : List Half) : Half :=
  c.bootChecksum.getD (code.foldl (· + ·) (a + BitVec.ofNat 16 code.length))

/-- Store a code set at a Fast Memory byte address (70 R554). -/
def storeCode (m : Sparse Byte) (addr : Nat) : List Half → Sparse Byte
  | [] => m
  | h :: t => storeCode (writeHalf m addr h) (addr + 2) t

/-- The state at the first user instruction (70 R558; 10 R86). -/
def bootState (c : Config) (a : BitVec 16) (code : List Half) : State :=
  let s := State.initial c
  { s with
    pc := a.zeroExtend 17
    mode := bootValue code
    regs := (s.regs.set 40 (bootChecksum c a code)).set 53 ((a.extractLsb' 12 4).zeroExtend 16)
    fm := storeCode [] (4 * a.toNat) code }

/-- Boot the code set `code`, whose start word address is `a` (70 R558). -/
def boot (c : Config) (a : BitVec 16) (code : List Half) :
    Host.Outcome State Fault Refusal :=
  if (bootChecks c a code).any id then .fault .bootImage else .next (bootState c a code)

end Sys2Proof.Machine
end

