-- ==== Sys2Proof/Machine/Fetch.lean ====
section
/-!
DEFINITION. Fetching and decoding the instruction at the pc, and its checks before execution (60
R523; 20 R125; 10 R24, R87).
-/
namespace Sys2Proof.Machine

/-- The byte address of the instruction at the pc (10 R23). -/
def pcByte (s : State) : Nat := 4 * s.pc.toNat

/-- The word at the pc, by halfwords (20 R101, R120). -/
def fetchRead (s : State) : Option Word := do
  let hi ← fmReadHalf s (pcByte s) 40
  let lo ← fmReadHalf s (pcByte s + 2) 42
  pure (hi ++ lo : BitVec 32)

/-- Fetch the word at the pc (20 R102, R125; 60 R523(1)). Its use of mode bit 4 is checked with the
implicit sources of the instruction, `fetchUse` (60 R523(6); log 25). -/
def fetchWord (s : State) : Check Word := do
  raiseIf (decide (fmLimit s (modeVal s 4) < pcByte s + 4)) .fmOutOfRange
  cacheCheck s s.pc
  match fetchRead s with
  | none => .error (.fault .unwrittenRead)
  | some w => .ok w

/-- The state once the instruction at the pc is fetched (20 R125). -/
def fetched (s : State) : State := recordFetch s s.pc

/-- A word of the Branch class, by its opcode (30 R141). -/
def isBranchWord (w : Word) : Bool := decide ((w.extractLsb' 26 6).toNat < 6)

/-- Sequential execution while R53[4:0] differs from the segment of the pc: one Branch instruction and
its committed slot are allowed, a third instruction is not (10 R24(d)). -/
def segmentBad (s : State) (w : Word) : Bool :=
  segmentOff s && s.ctag != .bslot && (! isBranchWord w || s.segBranch)

/-- Decode the fetched word, the mode bit as the instruction sees it (30 R162, R169). -/
def decodeAt (s : State) (w : Word) : Check Instr :=
  match decodeIn s w with
  | .ok i => .ok i
  | .error .undefinedOpcode => .error (.fault .undefinedOpcode)
  | .error .reservedEncoding => .error (.fault .reservedEncoding)

/-- Check the instruction against the tag it is executed under (10 R87). -/
def flowCheck (s : State) (i : Instr) : Check Unit :=
  match slotCheck s.ctag (flowClass i) with
  | some f => .error (.fault f)
  | none => .ok ()

/-- Fetch, decode and check the instruction at the pc, in the order of 60 R523(1) to (4). -/
def fetchInstr (s : State) : Check Instr := do
  let w ← fetchWord s
  raiseIf (segmentBad s w) .segmentMismatch
  let i ← decodeAt s w
  flowCheck s i
  .ok i

end Sys2Proof.Machine
end

