-- ==== Sys2Proof/Machine/Agents.lean ====
section
/-!
DEFINITION. The moves of the agents other than the SWAN, and their turn (00 R12; 70 R581; log 14).
-/
namespace Sys2Proof.Machine

/-- Perform a move of an agent other than the SWAN; `.stall` where its step is not enabled. -/
def perform (s : State) (m : Move) : Check State :=
  match m with
  | .swan => .error .stall
  | .fmcLoad => fmcLoadStep s
  | .fmcDrain => fmcDrainStep s
  | .lsu => lsuStep s
  | .css => cssStep s
  | .dma1 => dma1Step s
  | .dma2 => dma2Step s
  | .p1Abort => abortStep s
  | .p1Poke a b => p1PokeStep s a b
  | .p2Poke burst a b => p2PokeStep s burst a b
  | .rxOffer phy octets => rxAccept s phy octets
  | .rx => rxStep s
  | .txReady phy => txStart s phy
  | .tx => txStep s
  | .pit k => pitStep s k
  | .icsi pins => .ok (icsiStep s pins)
  | .icsLatch => .ok (icsLatchStep s)
  | .comminWrite v => .ok (comminStep s v)
  | .commoutRead => .ok (commoutStep s)

/-- A move that is not enabled has no effect. -/
def attempt (s : State) (m : Move) : Check State :=
  match perform s m with
  | .ok t => .ok t
  | .error .stall => .ok s
  | .error e => .error e

/-- The moves of the helpers' turn: one of each internal agent (70 R581). -/
def helperMoves : List Move := [.fmcLoad, .fmcDrain, .lsu, .css, .dma1, .dma2, .rx, .tx]

/-- One round of the internal agents, then the SWAN's turn. -/
def helpersTurn (s : State) : Check State := do
  let t ← helperMoves.foldlM attempt s
  .ok { t with turn := .swan, draws := t.draws + 1 }

/-- Write a word into Fast Memory as the next word fetched at the pc: its bytes, and nothing left of
an older content in the cache history or the write buffer (log 7). -/
def placeWord (s : State) (w : Word) : State :=
  { s with
    fm := writeWord s.fm (pcByte s) w
    icPages := Memory.erase s.icPages (cacheTag s.pc)
    icWords := Memory.erase s.icWords s.pc.toNat
    wbuf := s.wbuf.filter fun e => e.1 / 4 != s.pc.toNat }

/-- A DMA word with bit 26 set reads as a "+" form only in DMA Plus mode (30 R162; log 20). -/
def needsPlus (w : Word) : Bool := w.extractLsb' 29 3 == 0b011 && w.getLsbD 26

/-- Make the SWAN run the word `w` in the very next step (log 7). -/
def readyWord (s : State) (w : Word) : State :=
  let t := placeWord s w
  { t with
    mode := if needsPlus w then putBit t.mode 5 true else t.mode
    agenda := []
    turn := .swan
    stuck := false }

end Sys2Proof.Machine
end

