-- ==== Sys2Proof/Machine/Dispatch.lean ====
section
/-!
DEFINITION. The meaning of every instruction, one arm each.
-/
namespace Sys2Proof.Machine

/-- Execute an instruction (60 R523(3)). -/
def exec (i : Instr) (s : State) : Host.Outcome State Fault Refusal :=
  match i with
  | .add rd um abc rsa modx ae rsb => Sys2Proof.Machine.execAdd rd um abc rsa modx ae rsb s
  | .sub rd um abc rsa modx ae rsb => Sys2Proof.Machine.execSub rd um abc rsa modx ae rsb s
  | .and rd um abc rsa modx ae rsb => Sys2Proof.Machine.execAnd rd um abc rsa modx ae rsb s
  | .or rd um abc rsa modx ae rsb => Sys2Proof.Machine.execOr rd um abc rsa modx ae rsb s
  | .xor rd um abc rsa modx ae rsb => Sys2Proof.Machine.execXor rd um abc rsa modx ae rsb s
  | .max rd um cc rsa modx ae rsb => Sys2Proof.Machine.execMax rd um cc rsa modx ae rsb s
  | .min rd um cc rsa modx ae rsb => Sys2Proof.Machine.execMin rd um cc rsa modx ae rsb s
  | .addi rd um abc rsa modx usi => Sys2Proof.Machine.execAddi rd um abc rsa modx usi s
  | .subi rd um abc rsa modx usi => Sys2Proof.Machine.execSubi rd um abc rsa modx usi s
  | .andi rd um abc rsa si => Sys2Proof.Machine.execAndi rd um abc rsa si s
  | .ori rd um abc rsa si => Sys2Proof.Machine.execOri rd um abc rsa si s
  | .xori rd um abc rsa si => Sys2Proof.Machine.execXori rd um abc rsa si s
  | .maxi rd um cc rsa si => Sys2Proof.Machine.execMaxi rd um cc rsa si s
  | .mini rd um cc rsa si => Sys2Proof.Machine.execMini rd um cc rsa si s
  | .cmp cc rsa ae rsb => Sys2Proof.Machine.execCmp cc rsa ae rsb s
  | .cmpp cc rsa ae rsb => Sys2Proof.Machine.execCmpp cc rsa ae rsb s
  | .cmpi cc rsa si => Sys2Proof.Machine.execCmpi cc rsa si s
  | .cmppi cc rsa si => Sys2Proof.Machine.execCmppi cc rsa si s
  | .fls rd um abc rsa ae => Sys2Proof.Machine.execFls rd um abc rsa ae s
  | .limd rd um li => Sys2Proof.Machine.execLimd rd um li s
  | .sft rd um abc rsa modx rsb => Sys2Proof.Machine.execSft rd um abc rsa modx rsb s
  | .sfta rd um abc rsa modx rsb => Sys2Proof.Machine.execSfta rd um abc rsa modx rsb s
  | .sftc rd um abc rsa modx ae rsb => Sys2Proof.Machine.execSftc rd um abc rsa modx ae rsb s
  | .sftai rd um abc rsa modx usa => Sys2Proof.Machine.execSftai rd um abc rsa modx usa s
  | .sftci rd um abc rsa modx ae usa => Sys2Proof.Machine.execSftci rd um abc rsa modx ae usa s
  | .sftli rd um abc rsa modx ae amt => Sys2Proof.Machine.execSftli rd um abc rsa modx ae amt s
  | .sftri rd um abc rsa modx ae amt => Sys2Proof.Machine.execSftri rd um abc rsa modx ae amt s
  | .bi ess sense c cso wadr => Sys2Proof.Machine.execBi ess sense c cso wadr s
  | .bil ess sense c cso wadr => Sys2Proof.Machine.execBil ess sense c cso wadr s
  | .br ess sense c cso => Sys2Proof.Machine.execBr ess sense c cso s
  | .brl ess sense c cso => Sys2Proof.Machine.execBrl ess sense c cso s
  | .bf ess sense c cso => Sys2Proof.Machine.execBf ess sense c cso s
  | .bfl ess sense c cso => Sys2Proof.Machine.execBfl ess sense c cso s
  | .popc rd rsb => Sys2Proof.Machine.execPopc rd rsb s
  | .popf rd rsb => Sys2Proof.Machine.execPopf rd rsb s
  | .pushc rsa rsb => Sys2Proof.Machine.execPushc rsa rsb s
  | .pushf rsa rsb => Sys2Proof.Machine.execPushf rsa rsb s
  | .dma1r bc rla rsa ibi crcx crcy pod st rsb => Sys2Proof.Machine.execDma1r bc rla rsa ibi crcx crcy pod st rsb s
  | .dma1w bc rla rsa ibi crcx crcy pod st rsb => Sys2Proof.Machine.execDma1w bc rla rsa ibi crcx crcy pod st rsb s
  | .dma2r bc rla rsa ibi pod rsb => Sys2Proof.Machine.execDma2r bc rla rsa ibi pod rsb s
  | .dma2w bc rla rsa ibi pod rsb => Sys2Proof.Machine.execDma2w bc rla rsa ibi pod rsb s
  | .dma1rPlus bc rla rsa ibi crcx crcy pod st rsb => Sys2Proof.Machine.execDma1rPlus bc rla rsa ibi crcx crcy pod st rsb s
  | .dma1wPlus bc rla rsa ibi crcx crcy pod st rsb => Sys2Proof.Machine.execDma1wPlus bc rla rsa ibi crcx crcy pod st rsb s
  | .dma2rPlus bc rla rsa ibi pod rsb => Sys2Proof.Machine.execDma2rPlus bc rla rsa ibi pod rsb s
  | .dma2wPlus bc rla rsa ibi pod rsb => Sys2Proof.Machine.execDma2wPlus bc rla rsa ibi pod rsb s
  | .lmfm rd lnk z rsa hw rsb => Sys2Proof.Machine.execLmfm rd lnk z rsa hw rsb s
  | .shfm rsa rsb => Sys2Proof.Machine.execShfm rsa rsb s
  | .srh adr reg rsa lsbs rsb => Sys2Proof.Machine.execSrh adr reg rsa lsbs rsb s
  | .ld rd rla swap idx => Sys2Proof.Machine.execLd rd rla swap idx s
  | .ldd rd rla swap idx => Sys2Proof.Machine.execLdd rd rla swap idx s
  | .st swap rla rsa idx => Sys2Proof.Machine.execSt swap rla rsa idx s
  | .std swap rla rsa idx rsb => Sys2Proof.Machine.execStd swap rla rsa idx rsb s
  | .nop => Sys2Proof.Machine.execNop s
  | .mv rd rsa => Sys2Proof.Machine.execMv rd rsa s
  | .tset rsa mask => Sys2Proof.Machine.execTset rsa mask s
  | .tclr rsa mask => Sys2Proof.Machine.execTclr rsa mask s

end Sys2Proof.Machine
end

