-- ==== Sys2Proof/Machine/Step.lean ====
section
/-!
DEFINITION. The step of the machine, and placing a word where the next step fetches.
-/
namespace Sys2Proof.Machine

/-- The SWAN runs the instruction at its pc (10 R87; 60 R523). An instruction that waits is fetched
again at its next turn, and each fetch is recorded (log 46). -/
def swanStep (s : State) : Host.Outcome State Fault Refusal :=
  match fetchInstr s with
  | .ok i => exec i (fetched s)
  | .error e => complete s (.error e)

/-- The SWAN's turn: a stuck SWAN issues nothing and the helpers go on (60 R521; log 16). -/
def swanTurn (s : State) : Host.Outcome State Fault Refusal :=
  if s.stuck then .next { s with turn := .helpers } else swanStep s

/-- One step: the first move of the agenda, or with an empty agenda the turn (log 14). -/
def step (s : State) : Host.Outcome State Fault Refusal :=
  match s.agenda with
  | .swan :: rest => swanTurn { s with agenda := rest }
  | m :: rest => complete { s with agenda := rest } (attempt { s with agenda := rest } m)
  | [] =>
    match s.turn with
    | .swan => swanTurn s
    | .helpers => complete s (helpersTurn s)

/-- The state whose very next step fetches and runs the word of the bits `w` (log 7). -/
def State.withFetchWord (s : State) (nbits w : Nat) : State := readyWord s (tableWord nbits w)

end Sys2Proof.Machine
end

