-- ==== Sys2Proof/Safety.lean ====
section
/-!
DEFINITION. The words in which statements about the machine are made: operands that can be read and
written, invariants of every step, and when a run has ended (70 R580).
-/
namespace Sys2Proof.Machine

/-! ### Operands -/

/-- Register `r` can be read now by an instruction of class `u`: it is not the Bit Bucket, nothing is
owed to it, and it is outside its windows (60 R523(6)). -/
def Readable (u : Use) (s : State) (r : Reg) : Prop := readCheck u s r = .ok ()

/-- Register `r` can be a destination now and takes the value `v` (60 R523(5) to (7)). -/
def Writable (s : State) (r : Reg) (v : Half) : Prop :=
  r ≠ 61 ∧ destCheck s r = .ok () ∧ writeCheck s r v = .ok ()

/-- An instruction of class `u` can be fetched and read its source registers now: the fetch is outside
the window of mode bit 4, and every source is readable (60 R523(6); 70 R561; log 25). -/
def SourcesReady (u : Use) (s : State) (srcs : List Reg) : Prop :=
  fetchUse s = .ok () ∧ ∀ r ∈ srcs, Readable u s r

/-- A value that a read of the Fast Memory halfword at `a` may find: what memory holds, or the newest
buffered write, and without forwarding either of the two (20 R120; logs 8 and 41). -/
def MayRead (s : State) (a : Nat) (v : Half) : Prop :=
  match buffered s a with
  | none => readHalf s.fm a = some v
  | some w => v = w ∨ (s.cfg.fmRawForwarding = false ∧ ∀ m, readHalf s.fm a = some m → v = m)

/-- The instruction after this one is in the segment, or follows a committed slot of a Branch (10
R24(e), R87). -/
def CanAdvance (s : State) : Prop :=
  (s.fq = [] → offset s.pc < 0xFFF) ∧
    ∀ c ∈ s.fq.head?, s.ctag = .bslot ∨ segment c.1 = segment s.pc

/-- An Update Memory write-back is possible: mode bit 4 may be used, its address is populated and the
write buffer has room (40 R187; 70 R561). -/
def UmReady (s : State) (rd : Reg) : Prop :=
  modeRead s 4 = .ok () ∧ (umAddr s rd).toNat < fmLimit s (modeVal s 4) ∧ s.wbuf.length < 4

/-- What the cell of register `r` holds after `v` is written through its write side in state `s` (10
R28 to R67): registers with reserved fields keep only their writable bits, set/clear registers change
one bit, and the Bit Bucket and the registers without a write side keep nothing. -/
def storedAs (s : State) (r : Reg) (v : Half) : Half :=
  match r.val with
  | 36 => s.regs[36]
  | 42 => s.regs[42]
  | 43 => s.regs[43]
  | 48 => v &&& 0x0FFF
  | 49 => v &&& 0x0FFF
  | 50 => v &&& 0x0FFF
  | 51 => v &&& 0x0FFF
  | 52 => v &&& 0x03FF
  | 53 => v &&& 0x007F
  | 57 =>
    if 6 ≤ (ctlBit v).val ∧ (ctlBit v).val ≤ 9 then s.regs[57]
    else putBit s.regs[57] (ctlBit v).val (ctlSet v || heldSet s (ctlBit v).val)
  | 58 => v &&& 0x0FFF
  | 59 => v &&& 0x0FFF
  | 60 => v &&& 0xFF00
  | 61 => s.regs[61]
  | 63 => (s.regs[63] &&& 0xF000) ||| (v &&& 0x0FFF)
  | _ => v

/-- A write of `v` to `r` resets the Cell Scheduling System: CR of R60 is written as 1 (43 R299). -/
def cssResets (r : Reg) (v : Half) : Bool := r == 60 && v.getLsbD 14

/-- A destination whose write reaches no state but its own cell. -/
def PlainDest (r : Reg) : Prop :=
  r ≠ 32 ∧ r ≠ 33 ∧ r ≠ 40 ∧ r ≠ 42 ∧ r ≠ 43 ∧ r ≠ 54 ∧ r ≠ 55 ∧ r ≠ 60 ∧ r ≠ 62

/-- Nothing is outstanding and no window is open: every register may be used. -/
def Quiet (s : State) : Prop :=
  s.recs = [] ∧ s.plus = [] ∧ s.fmJobs = [] ∧ s.lsu = [] ∧ s.cssq = [] ∧ s.q1 = [] ∧ s.q2 = [] ∧
    s.cinLag = none ∧ s.coutLag = none ∧ s.rlaTrap = none ∧ s.popcShadow = none ∧
    s.popfAge = none ∧ s.dmaLag = none

/-- The registers an instruction names as destinations, the link register and those a load delivers to
later among them. -/
def dests (i : Instr) : List Reg :=
  match i with
  | .add rd _ _ _ _ _ _ => [rd]
  | .sub rd _ _ _ _ _ _ => [rd]
  | .and rd _ _ _ _ _ _ => [rd]
  | .or rd _ _ _ _ _ _ => [rd]
  | .xor rd _ _ _ _ _ _ => [rd]
  | .max rd _ _ _ _ _ _ => [rd]
  | .min rd _ _ _ _ _ _ => [rd]
  | .addi rd _ _ _ _ _ => [rd]
  | .subi rd _ _ _ _ _ => [rd]
  | .andi rd _ _ _ _ => [rd]
  | .ori rd _ _ _ _ => [rd]
  | .xori rd _ _ _ _ => [rd]
  | .maxi rd _ _ _ _ => [rd]
  | .mini rd _ _ _ _ => [rd]
  | .cmp _ _ _ _ => []
  | .cmpp _ _ _ _ => []
  | .cmpi _ _ _ => []
  | .cmppi _ _ _ => []
  | .fls rd _ _ _ _ => [rd]
  | .limd rd _ _ => [rd]
  | .sft rd _ _ _ _ _ => [rd]
  | .sfta rd _ _ _ _ _ => [rd]
  | .sftc rd _ _ _ _ _ _ => [rd]
  | .sftai rd _ _ _ _ _ => [rd]
  | .sftci rd _ _ _ _ _ _ => [rd]
  | .sftli rd _ _ _ _ _ _ => [rd]
  | .sftri rd _ _ _ _ _ _ => [rd]
  | .bi _ _ _ _ _ => []
  | .bil _ _ _ _ _ => [59]
  | .br _ _ _ _ => []
  | .brl _ _ _ _ => [59]
  | .bf _ _ _ _ => []
  | .bfl _ _ _ _ => [59]
  | .popc rd _ => [rd]
  | .popf _ _ => []
  | .pushc _ _ => []
  | .pushf _ _ => []
  | .dma1r _ _ _ _ _ _ _ _ _ => []
  | .dma1w _ _ _ _ _ _ _ _ _ => []
  | .dma2r _ _ _ _ _ _ => []
  | .dma2w _ _ _ _ _ _ => []
  | .dma1rPlus _ x _ _ _ _ _ _ _ => rlaRegs x
  | .dma1wPlus _ x _ _ _ _ _ _ _ => rlaRegs x
  | .dma2rPlus _ x _ _ _ _ => rlaRegs x
  | .dma2wPlus _ x _ _ _ _ => rlaRegs x
  | .lmfm rd lnk z rsa hw rsb =>
    lmfmDests { rd := rd, lnk := lnk, z := z, rsa := rsa, n := hw.toNat, rsb := rsb }
  | .shfm _ _ => []
  | .srh _ _ _ _ _ => []
  | .ld rd _ _ _ => [rd]
  | .ldd rd _ _ _ => [rd, nextReg rd]
  | .st _ _ _ _ => []
  | .std _ _ _ _ _ => []
  | .nop => [36]
  | .mv rd _ => [rd]
  | .tset _ _ => [36]
  | .tclr _ _ => [36]

/-- Instruction `i` runs to its end at `s`: it does not wait, and it does not leave the SWAN stuck. -/
def Completes (i : Instr) (s t : State) : Prop :=
  exec i s = .next t ∧ t ≠ waiting s ∧ t ≠ { waiting s with stuck := true }

/-- Instruction `i` leaves the SWAN stuck at `s`: nothing else changes but whose turn it is (10 R35). -/
def Sticks (i : Instr) (s : State) : Prop :=
  ∃ t, exec i s = .next t ∧ t.stuck = true ∧
    t = { s with stuck := true, turn := t.turn, draws := t.draws }

/-- A load of a hardware register, which the windows do not count as an instruction (70 R562, R565). -/
def HardwareLoad (i : Instr) : Prop :=
  ∃ rd x swap idx, 32 ≤ rd.val ∧ (i = .ld rd x swap idx ∨ i = .ldd rd x swap idx)

/-! ### What an instruction leaves alone -/

/-- No register but those of `ws` changes between `s` and `t`, apart from a register to which a
pending "+" increment is still owed (44 R327). -/
def RegsFrame (s t : State) (ws : List Reg) : Prop :=
  ∀ r : Reg, r ∉ ws → (∀ p ∈ s.plus, p.r ≠ r) → t.regs[r] = s.regs[r]

/-- Every byte of Fast Memory, the Cell Buffer RAM and the port spaces reads as before. -/
def SameBytes (s t : State) : Prop :=
  ∀ a : Nat, Memory.read t.fm a = Memory.read s.fm a ∧ Memory.read t.cb a = Memory.read s.cb a ∧
    Memory.read t.p1 a = Memory.read s.p1 a ∧ Memory.read t.p2b a = Memory.read s.p2b a ∧
    Memory.read t.p2n a = Memory.read s.p2n a

/-- Every Scoreboard bit reads as before. -/
def SameBits (s t : State) : Prop := ∀ a : Nat, Memory.read t.sb a = Memory.read s.sb a

/-- Every byte of memory and every Scoreboard bit reads as before. -/
def SameMemory (s t : State) : Prop := SameBytes s t ∧ SameBits s t

/-- A load job without its count of instructions. -/
def LmfmJob.timeless (j : LmfmJob) : LmfmJob := { j with acc := none }

/-- The same load jobs are outstanding, whatever instructions have passed since (45 R364). -/
def SameJobs (s t : State) : Prop :=
  t.fmJobs.map LmfmJob.timeless = s.fmJobs.map LmfmJob.timeless

/-- The state `s` with everything that the passing of any instruction may change taken from `t`: the
registers, the flow, the hazard windows, the mailbox input flag, the load jobs' counts and the
scheduling fields. -/
def passing (s t : State) : State :=
  { s with regs := t.regs, pc := t.pc, fq := t.fq, ctag := t.ctag, recs := t.recs, plus := t.plus,
           fmJobs := t.fmJobs, cinBusy := t.cinBusy, cinLag := t.cinLag, coutLag := t.coutLag,
           rlaPrev := t.rlaPrev, rlaTrap := t.rlaTrap, popcShadow := t.popcShadow,
           segBranch := t.segBranch, popfAge := t.popfAge, dmaLag := t.dmaLag, turn := t.turn,
           draws := t.draws }

/-- The next instruction is the head of the flow queue `q`, or the next word (10 R87(4)). -/
def Follows (s t : State) (q : List (BitVec 17 × FlowTag)) : Prop :=
  match q with
  | [] => t.pc = s.pc + 1 ∧ t.ctag = .seq ∧ t.fq = []
  | (a, g) :: r => t.pc = a ∧ t.ctag = g ∧ t.fq = r

/-- CIN_BUSY after an instruction with the source registers `srcs`: a read of R40 clears it (52
R491). -/
def cinAfter (s : State) (srcs : List Reg) : Bool := if 40 ∈ srcs then false else s.cinBusy

/-- An instruction with the sources `srcs` passed from `s` to `t`: no register but those of `ws`
changed, no byte of memory and no condition flag did, and what follows is given by `q`. -/
structure Passed (s t : State) (srcs ws : List Reg) (q : List (BitVec 17 × FlowTag)) : Prop where
  regs : RegsFrame s t ws
  memory : SameMemory s t
  flags : t.ovf = s.ovf ∧ t.acf = s.acf ∧ t.cmpState = s.cmpState
  cin : t.cinBusy = cinAfter s srcs
  flow : Follows s t q

/-! ### ALU instructions -/

/-- The flow an ALU instruction sets up is possible: the next word, or the branch target, is in the
segment, and no discarded word reads R40 (40 R185, R186; 10 R24(e)). -/
def FlowReady (s : State) (b : Option (Bool × Bool)) : Prop :=
  match b with
  | none => CanAdvance s
  | some (taken, ae) =>
    offset s.pc + 4 ≤ 0xFFF ∧
      (taken = false → ae = false → readsComm s (s.pc + 4) = false ∧ readsComm s (s.pc + 5) = false)

/-- An ALU instruction that writes `res` to `rd` can complete: its sources are readable, its
destination takes the value, its flow is possible, and its Update Memory write-back too. -/
def AluReady (s : State) (srcs : List Reg) (rd : Reg) (um : Bool) (res : Half)
    (b : Option (Bool × Bool)) : Prop :=
  SourcesReady .alu s srcs ∧ Writable s rd res ∧ FlowReady s b ∧ (um = true → UmReady s rd)

/-- The sign conditions are not used under modulo arithmetic (40 R183). -/
def SignTest (abc : Abc) (k : Nat) : Prop := abcSign abc = true → k = 16

/-- The compare-class code names a condition, and is not used under modulo (30 R155; 40 R184). -/
def CompareTest (s : State) (cc : BitVec 3) (k : Nat) : Prop :=
  cc ≠ 0 → (cmpCond s cc).isSome = true ∧ k = 16

/-- The effect of an ALU instruction that writes `res` to `rd` (40 R180, R187, R189): the destination
takes the value through its write side, the posted write-back is the newest entry of the write
buffer, and nothing else changes but what the write side of `rd` and the branch change. -/
structure AluDone (s t : State) (srcs : List Reg) (rd : Reg) (um : Bool) (res : Half)
    (b : Option (Bool × Bool)) : Prop where
  dest : t.regs[rd] = storedAs s rd res
  regs : RegsFrame s t (if cssResets rd res then [rd, 61] else [rd])
  bytes : SameBytes s t
  bits : cssResets rd res = false → SameBits s t ∧ t.acf = s.acf
  posted : t.wbuf = s.wbuf ++ (if um then [((umAddr s rd).toNat, res)] else [])
  jobs : SameJobs s t
  cin : t.cinBusy = cinAfter s srcs
  flow : Follows s t (aluNextQueue s b)
  rest : t = { passing s t with
    ovf := t.ovf, cmpState := t.cmpState, wbuf := t.wbuf, icWords := t.icWords, mode := t.mode,
    fifo := t.fifo, fifoWr := t.fifoWr, opts := t.opts, coutRdy := t.coutRdy,
    pitInit0 := t.pitInit0, pitInit1 := t.pitInit1, hecA := t.hecA, hecB := t.hecB,
    hecPhase := t.hecPhase, acf := t.acf, sb := t.sb, rxIdx := t.rxIdx, rxbusy := t.rxbusy,
    rxfull := t.rxfull, txIdx := t.txIdx, txbusy := t.txbusy, txfull := t.txfull }
  plain : PlainDest rd → t = { passing s t with
    ovf := t.ovf, cmpState := t.cmpState, wbuf := t.wbuf, icWords := t.icWords }

/-- Instruction `i` completes, once it is ready, by writing `res` to `rd` with OVF becoming `ovf` and
the arithmetic-class branch `abc` deciding what follows (40 R180, R183, R188). -/
def Computes (i : Instr) (s : State) (srcs : List Reg) (rd : Reg) (um : Bool) (abc : Abc) (k : Nat)
    (ae : Bool) (res : Half) (ovf : Bool) : Prop :=
  AluReady s srcs rd um res (arithBranch abc k res ovf ae) →
    ∃ t, exec i s = .next t ∧ AluDone s t srcs rd um res (arithBranch abc k res ovf ae) ∧
      t.ovf = ovf ∧ t.cmpState = s.cmpState

/-- Instruction `i` of the MAX and MIN family completes, once it is ready, by writing `res` to `rd`,
the compare-class code `cc` on the relation `c` deciding what follows; CMPSTATE is left open (40 R184,
R207; log 15). -/
def Selects (i : Instr) (s : State) (srcs : List Reg) (rd : Reg) (um : Bool) (cc : BitVec 3)
    (ae : Bool) (res : Half) (c : CmpState) : Prop :=
  AluReady s srcs rd um res (cmpBranch s cc c ae) →
    ∃ t, exec i s = .next t ∧ AluDone s t srcs rd um res (cmpBranch s cc c ae) ∧ t.ovf = s.ovf

/-- A compare instruction can complete (40 R184, R201). -/
def CompareReady (s : State) (srcs : List Reg) (b : Option (Bool × Bool)) : Prop :=
  SourcesReady .alu s srcs ∧ FlowReady s b

/-- The effect of a compare instruction that logs `c` (40 R201): no register is written. -/
structure CompareDone (s t : State) (srcs : List Reg) (c : CmpState) (b : Option (Bool × Bool)) :
    Prop where
  logged : t.cmpState = c
  flags : t.ovf = s.ovf ∧ t.acf = s.acf
  regs : RegsFrame s t []
  memory : SameMemory s t
  jobs : SameJobs s t
  cin : t.cinBusy = cinAfter s srcs
  flow : Follows s t (aluNextQueue s b)
  rest : t = { passing s t with cmpState := t.cmpState }

/-- Compare instruction `i` completes, once it is ready, by logging `c` (40 R184, R201). -/
def Compares (i : Instr) (s : State) (srcs : List Reg) (cc : BitVec 3) (ae : Bool) (c : CmpState) :
    Prop :=
  CompareReady s srcs (cmpBranch s cc c ae) →
    ∃ t, exec i s = .next t ∧ CompareDone s t srcs c (cmpBranch s cc c ae)

/-! ### Branch instructions -/

/-- The counter operation can be performed (42 R263; 10 R78; 70 R561). -/
def CsoReady (s : State) (c : Cso) : Prop :=
  (c = .none ∨ impliedUse s 62 2 = .ok ()) ∧
    match c with
    | .none => True
    | .drxbusy => 0 < s.rxbusy
    | .drxfull => 0 < s.rxfull
    | .itxbusy => s.txbusy < txSizeSeen s
    | .itxfull => s.txfull < txSizeSeen s

/-- A Branch instruction can complete: its signal can be tested, its counter operation performed, its
target register and R53 read and its link register written where they are, a word it nullifies is not
stale in the cache, and the sequential addresses it queues are in the segment (42 R260 to R265; 10
R24(e); 20 R125). -/
def BranchReady (s : State) (link : Bool) (x : Target) (e : Fin 16) (sense c : Bool) (cso : Cso) :
    Prop :=
  fetchUse s = .ok () ∧ essCheck s e = .ok () ∧ CsoReady s cso ∧
    (∀ r, x = .reg r → branchTaken s e sense = true → Readable .branch s r) ∧
    (branchTaken s e sense = true → accessOne s 53 = .ok ()) ∧
    (x = .reg 58 → ∀ j ∈ s.fmJobs, j.lnk = true → j.k ≠ 0) ∧
    (link = true → branchTaken s e sense = true → destCheck s 59 = .ok ()) ∧
    (if c = true ∧ (e = 15 ∨ branchTaken s e sense = false) then
      cacheCheck s (s.pc + 1) = .ok () ∧
        (branchTaken s e sense = false → offset s.pc + 2 ≤ 0xFFF)
     else offset s.pc + 1 ≤ 0xFFF)

/-- The effect of a Branch instruction with the condition decided (42 R262 to R265): the flow queue,
the link register, the counter of the counter operation, and nothing else; a nullified word is fetched,
and one that reads R40 clears CIN_BUSY. -/
structure BranchDone (s t : State) (link : Bool) (x : Target) (e : Fin 16) (sense c : Bool)
    (cso : Cso) : Prop where
  flow : Follows s t (branchQueue s (e == 15) (branchTaken s e sense) c (targetAddr s x))
  linked : link = true → branchTaken s e sense = true →
    t.regs[59] = (((s.pc + 2).extractLsb' 0 12).zeroExtend 16 : Half)
  regs : RegsFrame s t (if link && branchTaken s e sense then [59] else [])
  counters : t.rxbusy = (if cso = .drxbusy then s.rxbusy - 1 else s.rxbusy) ∧
    t.rxfull = (if cso = .drxfull then s.rxfull - 1 else s.rxfull) ∧
    t.txbusy = (if cso = .itxbusy then s.txbusy + 1 else s.txbusy) ∧
    t.txfull = (if cso = .itxfull then s.txfull + 1 else s.txfull)
  flags : t.ovf = s.ovf ∧ t.acf = s.acf ∧ t.cmpState = s.cmpState
  memory : SameMemory s t
  jobs : SameJobs s t
  cin : t.cinBusy =
    (if nullified (e == 15) (branchTaken s e sense) c && namesComm s (nullifiedWord s) then false
     else s.cinBusy)
  cache : let u := if nullified (e == 15) (branchTaken s e sense) c then recordFetch s (s.pc + 1)
      else s
    t.icPages = u.icPages ∧ t.icWords = u.icWords
  rest : t = { passing s t with
    rxbusy := t.rxbusy, rxfull := t.rxfull, txbusy := t.txbusy, txfull := t.txfull,
    icPages := t.icPages, icWords := t.icWords }

/-- A Branch instruction `i` completes, once it is ready, with its effect (42 R260). -/
def Branches (i : Instr) (s : State) (link : Bool) (x : Target) (e : Fin 16) (sense c : Bool)
    (cso : Cso) : Prop :=
  BranchReady s link x e sense c cso →
    ∃ t, exec i s = .next t ∧ BranchDone s t link x e sense c cso

/-! ### Cell Scheduling instructions -/

/-- A Cell Scheduling instruction with these source registers can be dispatched (43 R294, R299). -/
def CssReady (s : State) (srcs : List Reg) : Prop :=
  SourcesReady .other s srcs ∧ impliedUse s 60 2 = .ok () ∧
    (useVal s (.reg 60) 2 s.regs[60]).getLsbD 14 = false ∧ CanAdvance s ∧ s.cssq.length < 2

/-- The effect of dispatching a Cell Scheduling operation (43 R294): it is the newest entry of the
instruction buffer, and nothing else changes. -/
structure CssDispatched (s t : State) (srcs : List Reg) (o : CssOp) : Prop where
  passed : Passed s t srcs [] s.fq
  queued : t.cssq = s.cssq ++ [o]
  jobs : SameJobs s t
  rest : t = { passing s t with cssq := t.cssq }

/-! ### DMA instructions -/

/-- The registers a DMA instruction uses can be read, the mode bits and configuration it depends on are
outside their windows, and nothing is owed to the CRC pair it selects (44 R323, R324, R335; 70 R561). -/
def DmaReadable (s : State) (o : DmaOp) : Prop :=
  SourcesReady .dma s ([o.rsa, sw o.rsb] ++ rlaRegs o.rla) ∧
    (∀ r ∈ pairRegs (dmaCmdOf s o).crcSel, accessOne s r = .ok ()) ∧
    (o.ibi = false → Readable .dma s 52) ∧
    (o.plus = true ∨ 128 ≤ o.bc → modeRead s 5 = .ok ()) ∧
    (o.pod = true → impliedUse s 62 2 = .ok ())

/-- The Control field is no reserved combination (44 R326). -/
def DmaControl (s : State) (o : DmaOp) : Prop :=
  (s.cfg.strictReserved = true → o.ibi = false → o.bc = 0 ∧ o.crcx = false ∧ o.crcy = false) ∧
    ¬ (dmaCx s o = true ∧ dmaCy s o = true)

/-- The local range of a command: in the Cell Buffer RAM, in the gather window where it is one, and
inside its space (44 R323, R328; 20 R110). -/
def LocalRange (c : DmaCmd) : Prop :=
  c.l.getLsbD 11 = false ∧ (c.n ≠ 0 → c.l.getLsbD 10 = true → c.l &&& 0x0380 = 0) ∧
    (if c.l.getLsbD 10 then c.l.toNat % 128 + c.n ≤ 128 else c.l.toNat % 1024 + c.n ≤ 1024)

/-- A Port1 command has a described form: a write moves halfwords from even addresses, no transfer
crosses a 64K boundary, and a silent transfer is one of the three of 44 R334. -/
def Port1Form (c : DmaCmd) : Prop :=
  if c.silent then
    dmaDiscarded c = true ∨
      (c.crcSel ≠ .none ∧ c.n ≠ 0 ∧ c.l.getLsbD 0 = false ∧ (c.write = false → c.n = 4))
  else
    (c.write = true → c.l.getLsbD 0 = false ∧ c.b.getLsbD 0 = false) ∧ c.b.toNat + c.n ≤ 0x10000

/-- A Port2 command has a described form (44 R332; 51 R463). -/
def Port2Form (c : DmaCmd) : Prop :=
  c.l.getLsbD 0 = false ∧
    (if isBurst c then port2Half c + c.n / 2 ≤ 0x100000 else c.n = 2)

/-- A DMA instruction is one that its port can take. -/
def DmaFormed (s : State) (o : DmaOp) : Prop :=
  DmaReadable s o ∧ DmaControl s o ∧ LocalRange (dmaCmdOf s o) ∧
    (if o.port2 then Port2Form (dmaCmdOf s o) else Port1Form (dmaCmdOf s o)) ∧ CanAdvance s

/-- A DMA instruction can be issued: it is formed, and its port has a place (44 R321). -/
def DmaReady (s : State) (o : DmaOp) : Prop := DmaFormed s o ∧ (queueOf s o.port2).length < 3

/-- A "+" form names a register that is free for its increment (10 R49; 44 R327; 70 R565(b)). -/
def PlusReady (s : State) (o : DmaOp) (r : Reg) : Prop :=
  rlaReg o.rla = some r ∧ plusOf s r = none ∧ s.rlaTrap ≠ some r

/-- A "+" form names a register that is free, or the instruction is no "+" form. -/
def PlusFree (s : State) (o : DmaOp) : Prop := o.plus = true → ∃ r, PlusReady s o r

/-- A DMA instruction `i` that finds its port's three places taken waits: nothing changes but whose
turn it is (44 R321; 10 R76). -/
def WaitsForPort (i : Instr) (s : State) (o : DmaOp) : Prop :=
  DmaFormed s o → PlusFree s o → 3 ≤ (queueOf s o.port2).length →
    exec i s = .next (waiting s)

/-- The effect of issuing a DMA instruction (44 R320, R338): the command is the last of its port's
list, a holding register takes the link address, and nothing else changes. -/
structure DmaIssued (s t : State) (o : DmaOp) : Prop where
  passed : Passed s t [o.rsa, sw o.rsb] [] s.fq
  q1 : t.q1 = if o.port2 || dmaDiscarded (dmaCmdOf s o) then s.q1 else s.q1 ++ [dmaCmdOf s o]
  q2 : t.q2 = if o.port2 then s.q2 ++ [dmaCmdOf s o] else s.q2
  holdX : t.holdX = if dmaCx s o then linkAddr s else s.holdX
  holdY : t.holdY = if dmaCy s o && ! dmaCx s o then linkAddr s else s.holdY
  jobs : SameJobs s t
  rest : t = { passing s t with q1 := t.q1, q2 := t.q2, holdX := t.holdX, holdY := t.holdY }

/-- A DMA instruction `i` completes, once it is ready, by issuing its command, and waits while its
port's three places are taken; a "+" form also schedules the increment of its register, 64 modulo 512,
for after the next instruction (44 R320, R321, R327). -/
def Issues (i : Instr) (s : State) (o : DmaOp) : Prop :=
  WaitsForPort i s o ∧
  (DmaReady s o →
    (o.plus = false → ∃ t, exec i s = .next t ∧ DmaIssued s t o) ∧
    (o.plus = true → ∀ r, PlusReady s o r →
      ∃ t, exec i s = .next t ∧ DmaIssued s t o ∧
        ∃ p ∈ t.plus, p.r = r ∧ p.age = 0 ∧
          p.new = ((rlaVal .dma s o.rla).extractLsb' 9 7 ++
            ((rlaVal .dma s o.rla).extractLsb' 0 9 + 64) : Half)))

/-! ### Fast Memory instructions -/

/-- The fields of an LMFM are legal: at most 16 halfwords, destinations that exist, a Z mask where Z is
used, and a link within its limits (45 R361 to R364, R368). -/
def LmfmLegal (o : LmfmOp) (a : BitVec 20) : Prop :=
  o.n ≤ 16 ∧ o.rd.val + o.n ≤ 64 ∧ (o.z = true → (zMask o.rd).isSome = true) ∧
    (o.n ≠ 0 → a.getLsbD 0 = false ∧ (2 ≤ o.n → a.getLsbD 1 = false) ∧
      a.toNat % 32 + 2 * o.n ≤ 32) ∧
    (o.lnk = true → o.n ≤ 16 - o.rd.val % 16 ∧ a.extractLsb' 1 4 &&& ~~~ reg4 o.rd = 0)

/-- An LMFM can be issued: its fields are legal, its registers readable, its burst in populated Fast
Memory, and nothing is owed to its destinations (45 R361, R364, R365). -/
def LmfmReady (s : State) (o : LmfmOp) : Prop :=
  LmfmLegal o (lmfmAddr s o) ∧ SourcesReady .other s [o.rsa, sw o.rsb] ∧
    (o.n ≠ 0 → modeRead s 4 = .ok () ∧
      (lmfmAddr s o).toNat + 2 * o.n ≤ fmLimit s (modeVal s 4)) ∧
    CanAdvance s ∧ lmfmDestCheck s (lmfmDests o) = .ok ()

/-- The effect of an LMFM (45 R364, R365, R368): the load job is the newest, the link is replaced
under LNK, and nothing else changes; the registers are loaded later, by the Fast Memory controller. -/
structure LmfmIssued (s t : State) (o : LmfmOp) : Prop where
  passed : Passed s t [o.rsa, sw o.rsb] [] s.fq
  jobs : t.fmJobs.map LmfmJob.timeless = s.fmJobs.map LmfmJob.timeless ++
    (if o.n = 0 then [] else
      [{ addr := (lmfmAddr s o).toNat, n := o.n, rd := o.rd, lnk := o.lnk, k := 0, acc := none }])
  linked : o.lnk = true → t.linkMask = ~~~ reg4 o.rd ∧
    t.linkAdrs = ((lmfmAddr s o).extractLsb' 5 15 ++
      ((lmfmAddr s o).extractLsb' 1 4 &&& reg4 o.rd) : BitVec 19)
  kept : o.lnk = false → t.linkMask = s.linkMask ∧ t.linkAdrs = s.linkAdrs
  rest : t = { passing s t with linkMask := t.linkMask, linkAdrs := t.linkAdrs }

/-- A halfword store to Fast Memory at `a` can be posted: where a holding register gives its address,
no command that uses it is outstanding (45 R366, R367; 20 R102, R104; 44 R338). -/
def FmStoreReady (s : State) (hold : CrcSel) (regs : List Reg) (src : Reg) (a : BitVec 20) : Prop :=
  (hold = .none ∨ crcOwned s hold = false) ∧ SourcesReady .other s (regs ++ [src]) ∧
    modeRead s 4 = .ok () ∧ a.getLsbD 0 = false ∧
    a.toNat < fmLimit s (modeVal s 4) ∧ CanAdvance s ∧ s.wbuf.length < 4

/-- A halfword store to Fast Memory was posted: it is the newest entry of the write buffer, and
nothing else changes (45 R360, R366). -/
structure FmStorePosted (s t : State) (regs : List Reg) (src : Reg) (a : BitVec 20) : Prop where
  passed : Passed s t regs [] s.fq
  posted : t.wbuf = s.wbuf ++ [(a.toNat, readVal .other s src)]
  jobs : SameJobs s t
  rest : t = { passing s t with wbuf := t.wbuf, icWords := t.icWords }

/-! ### Internal RAM instructions -/

/-- A store of the load/store unit. -/
def isStore : LsuOp → Bool
  | .load1 _ _ _ => false
  | .load2 _ _ _ _ _ => false
  | .store1 _ _ => true
  | .store2 _ _ _ _ => true

/-- The target address of a load or store is one its memory has: a gather address is in its window,
and the Scoreboard takes no swap (46 R392, R393; 20 R110). -/
def TargetOk (t : Half) (swap : BitVec 2) : Prop :=
  (t.getLsbD 11 = true → swap = 0) ∧
    (t.getLsbD 11 = false → t.getLsbD 10 = true → t &&& 0x0380 = 0)

/-- A gather address outside its window of 128 bytes (20 R110). -/
def OutsideGather (t : Half) : Prop :=
  t.getLsbD 11 = false ∧ t.getLsbD 10 = true ∧ t &&& 0x0380 ≠ 0

/-- A load of the registers `ds` from the target `t` can be issued (46 R396, R397). -/
def LoadReady (s : State) (x : Rla) (swap : BitVec 2) (t : Half) (ds : List Reg) : Prop :=
  SourcesReady .other s (rlaRegs x) ∧ TargetOk t swap ∧ CanAdvance s ∧
    ∀ r ∈ ds, r ≠ 61 ∧ destCheck s r = .ok ()

/-- A store of the registers `srcs` to the target `t` can be issued: they are readable, the
Scoreboard is free where it is the target, and no store is outstanding (46 R390, R398, R399). -/
def StoreReady (s : State) (x : Rla) (swap : BitVec 2) (t : Half) (srcs : List Reg) : Prop :=
  SourcesReady .other s (srcs ++ rlaRegs x) ∧ TargetOk t swap ∧
    (t.getLsbD 11 = true → s.cssq = []) ∧ CanAdvance s ∧ (∀ o ∈ s.lsu, isStore o = false)

/-- The effect of issuing a load or store: the operation is the last of the load/store unit's list,
and nothing else changes (46 R390). -/
structure LsuIssued (s t : State) (srcs : List Reg) (o : LsuOp) : Prop where
  passed : Passed s t srcs [] s.fq
  queued : t.lsu = s.lsu ++ [o]
  jobs : SameJobs s t
  rest : t = { passing s t with lsu := t.lsu }

/-! ### Invariants of every step -/

/-- Every sparse memory is in its canonical form. -/
def MemoryForm (s : State) : Prop :=
  Memory.wf s.fm ∧ Memory.wf s.cb ∧ Memory.wf s.sb ∧ Memory.wf s.p1 ∧ Memory.wf s.p2b ∧
    Memory.wf s.p2n ∧ Memory.wf s.icPages ∧ Memory.wf s.icWords

/-- The hardware's buffers are never over-full: four posted writes, two Cell Scheduling operations,
three DMA commands a port, one store (10 R73 to R76). -/
def QueueBounds (s : State) : Prop :=
  s.wbuf.length ≤ 4 ∧ s.cssq.length ≤ 2 ∧ s.q1.length ≤ 3 ∧ s.q2.length ≤ 3 ∧
    (s.lsu.filter isStore).length ≤ 1

/-- The pending "+" increments are of local address registers and fit them, and the operations a
POPC leaves name software registers (44 R327; 43 R295). -/
def PendingForm (s : State) : Prop :=
  (∀ p ∈ s.plus, 48 ≤ p.r.val ∧ p.r.val ≤ 51 ∧ p.new &&& 0xF000 = 0) ∧
    (∀ c ∈ s.recs, ∀ r : Reg, c.key = .reg r → 48 ≤ r.val → r.val ≤ 51 → c.old &&& 0xF000 = 0) ∧
    (∀ o ∈ s.cssq, o.kind = .popc → o.rd.val < 32)

/-- The bits marked "read as zeroes" are zero, no reserved mode bit is set, and the Boot flag is
clear (10 R29, R43, R48, R55, R56, R62, R63). -/
def ReservedZero (s : State) : Prop :=
  s.regs[48] &&& 0xF000 = 0 ∧ s.regs[49] &&& 0xF000 = 0 ∧ s.regs[50] &&& 0xF000 = 0 ∧
    s.regs[51] &&& 0xF000 = 0 ∧ s.regs[52] &&& 0xFC00 = 0 ∧ s.regs[53] &&& 0xFFC0 = 0 ∧
    s.regs[58] &&& 0xF000 = 0 ∧ s.regs[59] &&& 0xF000 = 0 ∧ s.mode &&& 0xF00C = 0

/-- The four UTOPIA cell counters are in their range, 0 to the size of their side (10 R78). -/
def CountersInRange (s : State) : Prop :=
  s.rxbusy ≤ rxSizeOf s.regs[62] ∧ s.rxfull ≤ rxSizeOf s.regs[62] ∧
    s.txbusy ≤ txSizeOf s.regs[62] ∧ s.txfull ≤ txSizeOf s.regs[62]

/-! ### The end of a run (70 R580) -/

/-- How many other instructions end the window of a key (70 R560, R561, R566). -/
def window (k : RecKey) : Nat :=
  match k with
  | .hec => 3
  | .event _ => 1
  | .modeBit _ => 2
  | .r43 => 2
  | .reg r => if r = 60 ∨ r = 62 ∨ r = 63 then 2 else 1

/-- A record inside its window (70 R580, R562). -/
def recOpen (r : Rec) : Bool := decide (r.e < window r.key)

/-- Nothing the program has issued is still on its way (70 R580). -/
def quiescent (s : State) : Bool :=
  s.fq.isEmpty && ! s.recs.any recOpen && s.wbuf.isEmpty && s.fmJobs.isEmpty && s.lsu.isEmpty &&
    s.cssq.isEmpty && s.q1.isEmpty && s.q2.isEmpty && s.plus.isEmpty && s.rxCell.isNone &&
    s.txCell.isNone

/-- The default `end_of_run`: an unconditional BI to its own address with the N option (70 R580). -/
def atIdleLoop (s : State) : Bool :=
  match fetchInstr s with
  | .ok (.bi e _ c .none wadr) =>
    e == 15 && c && wadr == s.pc.extractLsb' 0 12 &&
      s.regs[53].extractLsb' 0 5 == s.pc.extractLsb' 12 5
  | _ => false

/-- The program is where `end_of_run` says that it ends (70 R580). -/
def atEnd (s : State) : Bool :=
  match s.cfg.endOfRun with
  | .idleLoop => atIdleLoop s
  | .atWord w => s.pc == w

/-- The run has ended under any predicate `endOfRun` of a harness (70 R580). -/
def endedWhen (endOfRun : State → Bool) (s : State) : Bool :=
  ! s.stuck && endOfRun s && quiescent s

/-- The run has ended under the parameter `end_of_run` of the state (70 R580). -/
def ended (s : State) : Bool := endedWhen atEnd s

end Sys2Proof.Machine
end

