-- ==== Sys2Proof/Certificates/Slice0/Obligations.lean ====
section
/-!
DEFINITION. The statements for the provers.
Each docstring names the rules of spec/ the statement is about; OBLIGATIONS.json lists them.
-/

section
open Sys2Proof Sys2Proof.Machine

/-! ### Encoding -/

/-- Decoding the word of a well-formed instruction gives the instruction back, for every operand of
every instruction (30 R140 to R169). -/
def Obligations.DecodeOfEncode : Prop :=
  ∀ (strict plus : Bool) (i : Instr), i.wf plus = true → decode strict plus (encode i) = .ok i

/-- With the fixed bits checked, a word that decodes is the word of what it decodes to: no bit of a
word is dropped, and what a word decodes to is well-formed (30 R140 to R169). -/
def Obligations.EncodeOfDecode : Prop :=
  ∀ (plus : Bool) (w : Word) (i : Instr), decode true plus w = .ok i →
    i.wf plus = true ∧ encode i = w

/-- The 18 undefined operation codes and the undefined Cell Scheduling sub-operations, and no other
word, are undefined, and the model faults on them, which is the spec's decision D2 (30 R142). -/
def Obligations.UndefinedOpcodes : Prop :=
  ∀ (strict plus : Bool) (w : Word),
    (decode strict plus w = .error .undefinedOpcode ↔
      (w.extractLsb' 26 6).toNat ∈
          [6, 7, 10, 11, 12, 13, 14, 15, 20, 22, 33, 35, 37, 39, 40, 44, 51, 55] ∨
        ((w.extractLsb' 27 5).toNat = 4 ∧ 2 ≤ (w.extractLsb' 16 3).toNat)) ∧
    ∀ s : State, decode s.cfg.strictReserved (modeVal s 5) w = .error .undefinedOpcode →
      decodeAt s w = .error (.fault .undefinedOpcode)

/-- A few words decode to the instructions the spec gives for them. The source itself prints only the
words of Tables 82 and 83 (95 section 1.9), the LDDSBH word here; the others are the spec's encodings of
instructions (43 R295, R297; 44 R330; 45 R366, R367; 46 R393): the NOP word is the spec's decision D7 (41
R242), and in the BRL word (42 R269) the cso code 0x00 is its decision D6. -/
def Obligations.DecodeWords : Prop :=
  decode true false 0x24A00007 = .ok (.popc 10 7) ∧
    decode true false 0x20002816 = .ok (.pushc 10 22) ∧
    decode true false 0x5C004011 = .ok (.shfm 16 17) ∧
    decode true false 0x5C140140 = .ok (.srh 2 4 0 10 0) ∧
    decode true false 0x44040C00 = .ok (.ldd 0 .ga 3 0) ∧
    decode true false 0x0FC00000 = .ok (.brl 15 false false .none) ∧
    decode true false 0x61421305 = .ok (.dma1r 40 .r50 4 true true false false false 5) ∧
    decode true false 0xFE400000 = .ok .nop

/-- A step runs the decoded instruction: when the word at the pc is fetched and decodes, and it may
stand under the tag of the pc, the step is the instruction's meaning at the state whose cache history
has the fetch; when it may not stand there, the step is the fault of the table (60 R523; 10 R87): in any
slot an ALU branch (an ALU word whose abc is not 000) and a conditional Branch (ESS# is not 1111) are
SlotRestriction, and an unconditional Branch is SlotRestriction in the committed slot of a Branch and
NestedBranch in the slot of an ALU branch that is taken or has AE set, and in N+4 and N+5 of one that is
not taken and has AE set. The table is the spec's decision D42. -/
def Obligations.StepRunsDecoded : Prop :=
  ∀ (s : State) (w : Word) (i : Instr),
    s.agenda = [] → s.turn = .swan → s.stuck = false →
    fetchWord s = .ok w → segmentBad s w = false → decodeAt s w = .ok i →
    let x := encode i
    let alu := x.getLsbD 31 = true ∧ x.extractLsb' 16 3 ≠ 0
    let branch := (x.extractLsb' 26 6).toNat < 6
    let restricted := s.ctag ≠ .seq ∧ (alu ∨ branch ∧ x.extractLsb' 22 4 ≠ 15) ∨
      s.ctag = .bslot ∧ branch
    let nested := (s.ctag = .aslotT ∨ s.ctag = .aeNt) ∧ branch ∧ x.extractLsb' 22 4 = 15
    (restricted → step s = .fault .slotRestriction) ∧
      (nested → step s = .fault .nestedBranch) ∧
      (¬ restricted → ¬ nested → step s = exec i (fetched s)) ∧
      fetched s = { s with icPages := (fetched s).icPages, icWords := (fetched s).icWords }

/-! ### The ALU -/

/-- The modulo merge keeps the low k bits of the ALU result and takes every other bit from `rsa`; for
a sum these are the k-bit modular sum (40 R182). -/
def Obligations.ModuloMerge : Prop :=
  ∀ (k : Nat) (a b alu : Half), 1 ≤ k → k ≤ 16 →
    (∀ i, i < 16 → (modMerge k a alu).getLsbD i = if i < k then alu.getLsbD i else a.getLsbD i) ∧
      (modMerge k a (a + b)).toNat % 2 ^ k = (a.toNat + b.toNat) % 2 ^ k

/-- The Overflow formulas hold exactly when the exact signed result is not representable (40 R188). -/
def Obligations.OverflowMeaning : Prop :=
  ∀ a b : Half,
    (ovfAdd a b (a + b) = true ↔ a.toInt + b.toInt < -32768 ∨ 32767 < a.toInt + b.toInt) ∧
      (ovfSub a b (a - b) = true ↔ a.toInt - b.toInt < -32768 ∨ 32767 < a.toInt - b.toInt) ∧
      (ovfAdd a b (a + b) = false ↔ (a + b).toInt = a.toInt + b.toInt) ∧
      (ovfSub a b (a - b) = false ↔ (a - b).toInt = a.toInt - b.toInt)

/-- ADD, SUB, ADDI and SUBI complete with the merged result in `rd`, OVF written only without modulo,
and nothing else changed (40 R180 to R190, R197, R198; 41 R238, R239). -/
def Obligations.AddSubResult : Prop :=
  ∀ (s : State) (rd rsa : Reg) (um ae : Bool) (abc : Abc) (modx : BitVec 4) (rsb : SReg)
    (usi : BitVec 6), PendingForm s → SignTest abc (modWidth modx) →
    let k := modWidth modx
    let a := readVal .alu s rsa
    let b := readVal .alu s (sw rsb)
    let u : Half := usi.zeroExtend 16
    Computes (.add rd um abc rsa modx ae rsb) s [rsa, sw rsb] rd um abc k ae
        (modMerge k a (a + b)) (if k = 16 then ovfAdd a b (a + b) else s.ovf) ∧
      Computes (.sub rd um abc rsa modx ae rsb) s [rsa, sw rsb] rd um abc k ae
        (modMerge k a (a - b)) (if k = 16 then ovfSub a b (a - b) else s.ovf) ∧
      Computes (.addi rd um abc rsa modx usi) s [rsa] rd um abc k false
        (modMerge k a (a + u)) (if k = 16 then ovfAdd a u (a + u) else s.ovf) ∧
      Computes (.subi rd um abc rsa modx usi) s [rsa] rd um abc k false
        (modMerge k a (a - u)) (if k = 16 then ovfSub a u (a - u) else s.ovf)

/-- AND, OR, XOR, ANDI, ORI, XORI and MV complete with the bitwise result in `rd`, OVF as it was; the
expansion of MV is the spec's decision D7 (40 R199, R200, R211, R212; 41 R240, R241, R243). -/
def Obligations.LogicResult : Prop :=
  ∀ (s : State) (rd rsa : Reg) (um ae : Bool) (abc : Abc) (modx : BitVec 4) (rsb : SReg)
    (si : BitVec 10), PendingForm s →
    let k := modWidth modx
    let a := readVal .alu s rsa
    let b := readVal .alu s (sw rsb)
    let i : Half := si.signExtend 16
    (SignTest abc k →
      Computes (.and rd um abc rsa modx ae rsb) s [rsa, sw rsb] rd um abc k ae
          (modMerge k a (a &&& b)) s.ovf ∧
        Computes (.or rd um abc rsa modx ae rsb) s [rsa, sw rsb] rd um abc k ae
          (modMerge k a (a ||| b)) s.ovf ∧
        Computes (.xor rd um abc rsa modx ae rsb) s [rsa, sw rsb] rd um abc k ae
          (modMerge k a (a ^^^ b)) s.ovf) ∧
      Computes (.andi rd um abc rsa si) s [rsa] rd um abc 16 false (a &&& i) s.ovf ∧
      Computes (.ori rd um abc rsa si) s [rsa] rd um abc 16 false (a ||| i) s.ovf ∧
      Computes (.xori rd um abc rsa si) s [rsa] rd um abc 16 false (a ^^^ i) s.ovf ∧
      Computes (.mv rd rsa) s [rsa] rd false .none 16 false a s.ovf

/-- MAX, MIN, MAXI and MINI complete with the unsigned larger or smaller operand in `rd`; the branch
tests the relation of the full operands; CMPSTATE is left open (log 15; 40 R184, R207 to R210). -/
def Obligations.MaxMinResult : Prop :=
  ∀ (s : State) (rd rsa : Reg) (um ae : Bool) (cc : BitVec 3) (modx : BitVec 4) (rsb : SReg)
    (si : BitVec 10), PendingForm s →
    let k := modWidth modx
    let a := readVal .alu s rsa
    let b := readVal .alu s (sw rsb)
    let i : Half := si.signExtend 16
    (CompareTest s cc k →
      Selects (.max rd um cc rsa modx ae rsb) s [rsa, sw rsb] rd um cc ae
          (modMerge k a (if a.toNat < b.toNat then b else a)) (compare3 a b) ∧
        Selects (.min rd um cc rsa modx ae rsb) s [rsa, sw rsb] rd um cc ae
          (modMerge k a (if b.toNat < a.toNat then b else a)) (compare3 a b)) ∧
      (CompareTest s cc 16 →
        Selects (.maxi rd um cc rsa si) s [rsa] rd um cc false
            (if a.toNat < i.toNat then i else a) (compare3 a i) ∧
          Selects (.mini rd um cc rsa si) s [rsa] rd um cc false
            (if i.toNat < a.toNat then i else a) (compare3 a i))

/-- CMP, CMPP, CMPI and CMPPI complete by logging the unsigned relation of their operands; the forms
with Previous keep the earlier relation unless it was "equal", and no register is written; that every
compare logs is the spec's decision D43 (40 R201 to R204). -/
def Obligations.CompareResult : Prop :=
  ∀ (s : State) (rsa : Reg) (ae : Bool) (cc : BitVec 3) (rsb : SReg) (si : BitVec 10),
    CompareTest s cc 16 →
    let a := readVal .alu s rsa
    let b := readVal .alu s (sw rsb)
    let i : Half := si.signExtend 16
    Compares (.cmp cc rsa ae rsb) s [rsa, sw rsb] cc ae (compare3 a b) ∧
      Compares (.cmpp cc rsa ae rsb) s [rsa, sw rsb] cc ae
        (if s.cmpState = .eq then compare3 a b else s.cmpState) ∧
      Compares (.cmpi cc rsa si) s [rsa] cc false (compare3 a i) ∧
      Compares (.cmppi cc rsa si) s [rsa] cc false
        (if s.cmpState = .eq then compare3 a i else s.cmpState)

/-- The seven shifts complete with the shifted value merged into `rd`, OVF as it was; SFTA does where
bit 4 of its amount is 0, and stops where it is 1, which the manual's text and table read differently
(41 R230 to R237; decision D18). -/
def Obligations.ShiftResult : Prop :=
  ∀ (s : State) (rd rsa : Reg) (um ae : Bool) (abc : Abc) (modx : BitVec 4) (rsb : SReg)
    (amt : BitVec 4), PendingForm s → SignTest abc (modWidth modx) →
    let k := modWidth modx
    let a := readVal .alu s rsa
    let b := readVal .alu s (sw rsb)
    Computes (.sft rd um abc rsa modx rsb) s [rsa, sw rsb] rd um abc k false
        (modMerge k a (sft a (b.extractLsb' 0 5))) s.ovf ∧
      (b.getLsbD 4 = false →
        Computes (.sfta rd um abc rsa modx rsb) s [rsa, sw rsb] rd um abc k false
          (modMerge k a (sar a (b.extractLsb' 0 4).toNat)) s.ovf) ∧
      (b.getLsbD 4 = true → rd ≠ 61 → SourcesReady .alu s [rsa, sw rsb] →
        (um = true → modeRead s 4 = .ok ()) → destCheck s rd = .ok () → writeUse s rd = .ok () →
        exec (.sfta rd um abc rsa modx rsb) s = .fault .shiftAmountAmbiguous) ∧
      Computes (.sftc rd um abc rsa modx ae rsb) s [rsa, sw rsb] rd um abc k ae
        (modMerge k a (rotl a (b.extractLsb' 0 4).toNat)) s.ovf ∧
      Computes (.sftai rd um abc rsa modx amt) s [rsa] rd um abc k false
        (modMerge k a (sar a amt.toNat)) s.ovf ∧
      Computes (.sftci rd um abc rsa modx ae amt) s [rsa] rd um abc k ae
        (modMerge k a (rotl a amt.toNat)) s.ovf ∧
      Computes (.sftli rd um abc rsa modx ae amt) s [rsa] rd um abc k ae
        (modMerge k a (a <<< amt.toNat)) s.ovf ∧
      Computes (.sftri rd um abc rsa modx ae amt) s [rsa] rd um abc k ae
        (modMerge k a (a >>> (16 - amt.toNat))) s.ovf

/-- The shift functions bit by bit, and the signed shift by its signed amount (41 R230, R231; 30
R171). -/
def Obligations.ShiftBits : Prop :=
  ∀ (x : Half) (n i : Nat), n < 16 → i < 16 →
    (shl x n).getLsbD i = (if i < n then false else x.getLsbD (i - n)) ∧
      (shr x n).getLsbD i = x.getLsbD (i + n) ∧
      (sar x n).getLsbD i = (if i + n < 16 then x.getLsbD (i + n) else x.getLsbD 15) ∧
      (rotl x n).getLsbD i = x.getLsbD ((i + 16 - n) % 16) ∧
      (∀ a : BitVec 5, 0 ≤ a.toInt → sft x a = x <<< a.toInt.toNat) ∧
      (∀ a : BitVec 5, a.toInt < 0 → sft x a = x >>> (-a.toInt).toNat)

/-- FLS, LIMD and NOP complete: FLS with the index of the most significant set bit, or 0x8000 when no
bit is set, LIMD with its immediate, and NOP, whose expansion is the spec's decision D7, with nothing
changed but the pc (40 R205, R206; 41 R242). -/
def Obligations.FindLoadNop : Prop :=
  (findLastSet 0 = 0x8000 ∧
    ∀ x : Half, x ≠ 0 → ∃ i, i < 16 ∧ findLastSet x = BitVec.ofNat 16 i ∧ x.getLsbD i = true ∧
      ∀ j, i < j → x.getLsbD j = false) ∧
  ∀ (s : State) (rd rsa : Reg) (um ae : Bool) (abc : Abc) (li : Half), PendingForm s →
    Computes (.fls rd um abc rsa ae) s [rsa] rd um abc 16 ae
        (findLastSet (readVal .alu s rsa)) s.ovf ∧
      Computes (.limd rd um li) s [] rd um .none 16 false li s.ovf ∧
      (AluReady s [] 36 false 0 none →
        ∃ t, exec .nop s = .next t ∧ Passed s t [] [] s.fq ∧ SameJobs s t ∧ t = passing s t)

/-- TSET and TCLR complete by branching on the masked bits of `rsa`: TSET is taken when one of them is
set, TCLR when none is, and no register changes; their expansions are the spec's decision D7 (41 R244,
R245; 10 R35). -/
def Obligations.TestBranches : Prop :=
  ∀ (s : State) (rsa : Reg) (mask : BitVec 10), PendingForm s →
    let v : Half := readVal .alu s rsa &&& mask.signExtend 16
    (AluReady s [rsa] 36 false v (some (decide (v ≠ 0), false)) →
      ∃ t, exec (.tset rsa mask) s = .next t ∧
        Passed s t [rsa] [] (aluQueue s (decide (v ≠ 0)) false) ∧ SameJobs s t ∧
        t = passing s t) ∧
      (AluReady s [rsa] 36 false v (some (decide (v = 0), false)) →
        ∃ t, exec (.tclr rsa mask) s = .next t ∧
          Passed s t [rsa] [] (aluQueue s (decide (v = 0)) false) ∧ SameJobs s t ∧
          t = passing s t)

/-- When an ALU branch is taken, and what runs after it. The arithmetic conditions look at the sign of the
result, at its low k bits for zero, and at OVF; the sign conditions stop under modulo arithmetic, which is
the spec's decision D41, as do the compare conditions of MAX and MIN. The compare conditions look at the
unsigned relation of the operands; the codes that name them are the default of the parameter of decision
D4. The flow after a branch at N: taken, N+1 and then N+4; not taken, N+1 and then N+2; with AE set, N+1,
N+4 and N+5 and then N+6, or when not taken N+2, N+3 and, as the parameter says, N+4 again or N+6 (30
R154, R155; 40 R183 to R186, R201, R203). -/
def Obligations.AluBranches : Prop :=
  (∀ (k : Nat) (res : Half) (ovf ae : Bool) (abc : Abc), 1 ≤ k → k ≤ 16 →
    (arithBranch .none k res ovf ae = none ∧
      (abc ≠ .none → arithBranch abc k res ovf ae = some (abcHolds abc k res ovf, ae))) ∧
    (abcHolds .bgez k res ovf = true ↔ 0 ≤ res.toInt) ∧
    (abcHolds .bz k res ovf = true ↔ res.toNat % 2 ^ k = 0) ∧
    (abcHolds .blez 16 res ovf = true ↔ res.toInt ≤ 0) ∧
    (abcHolds .blz k res ovf = true ↔ res.toInt < 0) ∧
    (abcHolds .bnz k res ovf = true ↔ res.toNat % 2 ^ k ≠ 0) ∧
    (abcHolds .bno k res ovf = true ↔ ovf = false)) ∧
  (∀ a b : Half,
    (cmpHolds .bagb (compare3 a b) = true ↔ b.toNat < a.toNat) ∧
    (cmpHolds .bageb (compare3 a b) = true ↔ b.toNat ≤ a.toNat) ∧
    (cmpHolds .baeb (compare3 a b) = true ↔ a = b) ∧
    (cmpHolds .baleb (compare3 a b) = true ↔ a.toNat ≤ b.toNat) ∧
    (cmpHolds .balb (compare3 a b) = true ↔ a.toNat < b.toNat) ∧
    (cmpHolds .baneb (compare3 a b) = true ↔ a ≠ b)) ∧
  (∀ (s : State) (c : CmpState) (ae : Bool), s.cfg = Config.standard →
    cmpBranch s 0 c ae = none ∧
    cmpBranch s 1 c ae = some (cmpHolds .bageb c, ae) ∧
    cmpBranch s 2 c ae = some (cmpHolds .bagb c, ae) ∧
    cmpBranch s 3 c ae = some (cmpHolds .baeb c, ae) ∧
    cmpBranch s 4 c ae = some (cmpHolds .baleb c, ae) ∧
    cmpBranch s 5 c ae = some (cmpHolds .balb c, ae) ∧
    cmpBranch s 6 c ae = some (cmpHolds .baneb c, ae) ∧ cmpCond s 7 = none) ∧
  (∀ s : State, let n := s.pc
    aluQueue s true false = [(n + 1, .aslotT), (n + 4, .seq)] ∧
    aluQueue s false false = [(n + 1, .aslotNt)] ∧
    aluQueue s true true = [(n + 1, .aslotT), (n + 4, .aeT), (n + 5, .aeT)] ∧
    ∃ l, aluQueue s false true = [(n + 1, .aslotT), (n + 4, .aeNt), (n + 5, .aeNt),
        (n + 2, .seq), (n + 3, .seq)] ++ l ∧
      (l = [] ∨ l = [(n + 6, .seq)]) ∧ (s.cfg.aeFallthrough = .reexecute → l = []) ∧
      (s.cfg.aeFallthrough = .skip → l = [(n + 6, .seq)])) ∧
  ∀ (s : State) (rd rsa : Reg) (um ae : Bool) (abc : Abc) (cc : BitVec 3) (modx : BitVec 4)
    (rsb : SReg) (usi : BitVec 6) (amt : BitVec 4), modx ≠ 15 →
    let stops (i : Instr) : Prop := exec i s = .fault .moduloSignBranch
    (abc = .bgez ∨ abc = .blez ∨ abc = .blz →
      stops (.add rd um abc rsa modx ae rsb) ∧ stops (.sub rd um abc rsa modx ae rsb) ∧
      stops (.and rd um abc rsa modx ae rsb) ∧ stops (.or rd um abc rsa modx ae rsb) ∧
      stops (.xor rd um abc rsa modx ae rsb) ∧ stops (.addi rd um abc rsa modx usi) ∧
      stops (.subi rd um abc rsa modx usi) ∧ stops (.sft rd um abc rsa modx rsb) ∧
      stops (.sfta rd um abc rsa modx rsb) ∧ stops (.sftc rd um abc rsa modx ae rsb) ∧
      stops (.sftai rd um abc rsa modx amt) ∧ stops (.sftci rd um abc rsa modx ae amt) ∧
      stops (.sftli rd um abc rsa modx ae amt) ∧ stops (.sftri rd um abc rsa modx ae amt)) ∧
    ((cmpCond s cc).isSome = true →
      stops (.max rd um cc rsa modx ae rsb) ∧ stops (.min rd um cc rsa modx ae rsb))

/-- Only ADD, SUB, ADDI and SUBI without modulo change OVF: no other instruction does, and no other
agent (40 R188). -/
def Obligations.OverflowWriters : Prop :=
  (∀ (i : Instr) (s t : State), exec i s = .next t → t.ovf ≠ s.ovf →
    (∃ rd um abc rsa ae rsb, i = .add rd um abc rsa 15 ae rsb) ∨
      (∃ rd um abc rsa ae rsb, i = .sub rd um abc rsa 15 ae rsb) ∨
      (∃ rd um abc rsa usi, i = .addi rd um abc rsa 15 usi) ∨
      (∃ rd um abc rsa usi, i = .subi rd um abc rsa 15 usi)) ∧
    ∀ (m : Move) (s t : State), perform s m = .ok t → t.ovf = s.ovf

/-! ### Branches -/

/-- The six Branch instructions complete: the flow queue of 42 R262 with the target of R264, the link
register of R265, the counter operation of R263, and nothing else (42 R260 to R271). That ESS# 1111 is
unconditional whatever S is, is the spec's decision D5 (42 R261), and that the link wraps modulo 4096 its
decision D27 (42 R265). What a nullified word is that nobody has written or that is still buffered, is
the model's choice (log 23); so is that it is checked and recorded in the cache history like a fetched
one (log 18), and that at offset 0xFFF it is the word at the 17-bit pc + 1, the first one of the next
segment, with no SegmentOverrun (log 49). -/
def Obligations.BranchResult : Prop :=
  ∀ (s : State) (e : Fin 16) (sense c : Bool) (cso : Cso) (wadr : BitVec 12),
    Branches (.bi e sense c cso wadr) s false (.imm wadr) e sense c cso ∧
      Branches (.bil e sense c cso wadr) s true (.imm wadr) e sense c cso ∧
      Branches (.br e sense c cso) s false (.reg 59) e sense c cso ∧
      Branches (.brl e sense c cso) s true (.reg 59) e sense c cso ∧
      Branches (.bf e sense c cso) s false (.reg 58) e sense c cso ∧
      Branches (.bfl e sense c cso) s true (.reg 58) e sense c cso

/-- The committed slot and the target of an immediate branch, case by case; ESS# 1111 is unconditional
whatever S is, which is the spec's decision D5; and the word a branch nullifies is the one memory holds
at the next address, where it is written and no write to it is buffered (42 R261, R262, R264; 10 R24). -/
def Obligations.BranchOrder : Prop :=
  ∀ (s t : State) (link : Bool) (e : Fin 16) (sense c : Bool) (cso : Cso) (wadr : BitVec 12),
    BranchDone s t link (.imm wadr) e sense c cso →
    let target : BitVec 17 := s.regs[53].extractLsb' 0 5 ++ wadr
    let taken := e = 15 ∨ essVal s e = sense
    (e ≠ 15 → taken → t.pc = s.pc + 1 ∧ t.ctag = .bslot ∧ t.fq = [(target, .seq)]) ∧
      (¬ taken → c = false → t.pc = s.pc + 1 ∧ t.ctag = .bslot ∧ t.fq = []) ∧
      (¬ taken → c = true → t.pc = s.pc + 2 ∧ t.ctag = .seq ∧ t.fq = []) ∧
      (e = 15 → c = false → t.pc = s.pc + 1 ∧ t.ctag = .bslot ∧ t.fq = [(target, .seq)]) ∧
      (e = 15 → c = true → t.pc = target ∧ t.ctag = .seq ∧ t.fq = []) ∧
      ∀ hi lo : Half, buffered s (4 * (s.pc + 1).toNat) = none →
        buffered s (4 * (s.pc + 1).toNat + 2) = none →
        readHalf s.fm (4 * (s.pc + 1).toNat) = some hi →
        readHalf s.fm (4 * (s.pc + 1).toNat + 2) = some lo → nullifiedWord s = hi ++ lo

/-- What the sixteen External State Signals are; with no window open and nothing owed to a register, a
Branch instruction tests, and a read of R42 shows, just these (10 R40, R41; 42 R261). -/
def Obligations.StateSignals : Prop :=
  ∀ s : State,
    (ess s 0 = s.icsi.getLsbD 0 ∧ ess s 1 = s.icsi.getLsbD 1 ∧
      (ess s 2 = true ↔ s.txfull ≤ 2) ∧ (ess s 3 = true ↔ 4 ≤ s.rxbusy) ∧ ess s 4 = s.acf ∧
      (ess s 5 = true ↔ s.cssq ≠ []) ∧ ess s 6 = s.cinBusy ∧ ess s 7 = s.coutRdy ∧
      (ess s 8 = true ↔ ∃ b < 6, s.regs[57].getLsbD b = true) ∧
      (ess s 9 = true ↔ s.rxbusy ≠ 0) ∧ (ess s 10 = true ↔ s.txfull = txSizeOf s.regs[62]) ∧
      (ess s 11 = true ↔ 1 ≤ s.q1.length) ∧ (ess s 12 = true ↔ 1 ≤ s.q2.length) ∧
      (ess s 13 = true ↔ 2 ≤ s.q1.length) ∧ (ess s 14 = true ↔ 2 ≤ s.q2.length) ∧
      ess s 15 = true) ∧
    (s.recs = [] → s.cinLag = none → s.coutLag = none → s.dmaLag = none →
      (∀ r : Reg, accessOne s r = .ok ()) →
      ∀ k : Fin 16, essCheck s k = .ok () ∧ essVal s k = ess s k ∧
        (r42Read s).getLsbD k.val = ess s k)

/-! ### The Cell Scheduling System -/

/-- POPC, POPF, PUSHC and PUSHF complete by handing the CSS an operation on the slot `rsb[13:0]`; the
destination of a POPC is then pending and must not be named by the next instruction (43 R294 to R298). -/
def Obligations.CssDispatch : Prop :=
  ∀ (s : State) (r : Reg) (rsb : SReg),
    let slot : BitVec 14 := (readVal .other s (sw rsb)).extractLsb' 0 14
    (r.val < 32 → destCheck s r = .ok () → CssReady s [sw rsb] →
      ∃ t, exec (.popc r rsb) s = .next t ∧
        CssDispatched s t [sw rsb] { kind := .popc, t := slot, cid := 0, rd := r } ∧
        pending t r = true ∧ t.popcShadow = some r) ∧
      (s.popfAge = none → CssReady s [sw rsb] →
        ∃ t, exec (.popf r rsb) s = .next t ∧
          CssDispatched s t [sw rsb] { kind := .popf, t := slot, cid := 0, rd := r } ∧
          t.popfAge = some 0) ∧
      (CssReady s [r, sw rsb] →
        ∃ t, exec (.pushc r rsb) s = .next t ∧
          CssDispatched s t [r, sw rsb]
            { kind := .pushc, t := slot, cid := readVal .other s r, rd := r }) ∧
      (CssReady s [sw rsb] →
        ∃ t, exec (.pushf r rsb) s = .next t ∧
          CssDispatched s t [sw rsb] { kind := .pushf, t := slot, cid := 0, rd := r })

/-- Where the Cell Scheduling instructions stop and where they wait. A POPC into a hardware register, any of
the four while the CSS is held in reset, and a POPF too soon after another, stop; any of the four waits
while the instruction buffer is full; the faults are the spec's decisions D25, D46 and D48 (43 R294 to
R296, R299). -/
def Obligations.CssStops : Prop :=
  ∀ (s : State) (r : Reg) (rsb : SReg),
    (32 ≤ r.val → exec (.popc r rsb) s = .fault .operandClass) ∧
      (SourcesReady .other s [sw rsb] → impliedUse s 60 2 = .ok () →
        ((useVal s (.reg 60) 2 s.regs[60]).getLsbD 14 = true →
          exec (.popf r rsb) s = .fault .cssInReset ∧ exec (.pushf r rsb) s = .fault .cssInReset ∧
          (Readable .other s r → exec (.pushc r rsb) s = .fault .cssInReset) ∧
          (r.val < 32 → destCheck s r = .ok () → exec (.popc r rsb) s = .fault .cssInReset)) ∧
        ((useVal s (.reg 60) 2 s.regs[60]).getLsbD 14 = false →
          (s.popfAge ≠ none → exec (.popf r rsb) s = .fault .popfSpacing) ∧
          (CanAdvance s → 2 ≤ s.cssq.length →
            exec (.pushf r rsb) s = .next (waiting s) ∧
            (s.popfAge = none → exec (.popf r rsb) s = .next (waiting s)) ∧
            (Readable .other s r → exec (.pushc r rsb) s = .next (waiting s)) ∧
            (r.val < 32 → destCheck s r = .ok () →
              exec (.popc r rsb) s = .next (waiting s)))))

/-- The CSS pops a slot: its bit goes to ACF and is cleared, and for a POPC the Connection ID is read
into the destination; nothing else changes (43 R295, R296). -/
def Obligations.PopAction : Prop :=
  ∀ (s : State) (o : CssOp) (rest : List CssOp) (b : Bool),
    s.cssq = o :: rest → Memory.read s.sb o.t.toNat = some b →
    (o.kind = .popf →
      ∃ t, perform s .css = .ok t ∧ t.acf = b ∧ Memory.read t.sb o.t.toNat = some false ∧
        (∀ a, a ≠ o.t.toNat → Memory.read t.sb a = Memory.read s.sb a) ∧
        t = { s with cssq := rest, acf := t.acf, sb := t.sb, draws := t.draws }) ∧
      (o.kind = .popc → ∀ h : Half, cidAddr s o.t.toNat < fmLimit s (modeBit s 4) →
        buffered s (cidAddr s o.t.toNat) = none → readHalf s.fm (cidAddr s o.t.toNat) = some h →
        ∃ t, perform s .css = .ok t ∧ t.acf = b ∧ Memory.read t.sb o.t.toNat = some false ∧
          (∀ a, a ≠ o.t.toNat → Memory.read t.sb a = Memory.read s.sb a) ∧ t.regs[o.rd] = h ∧
          (∀ r : Reg, r ≠ o.rd → t.regs[r] = s.regs[r]) ∧
          t = { s with cssq := rest, acf := t.acf, sb := t.sb, regs := t.regs,
                       draws := t.draws })

/-- The CSS pushes a slot: the first Available slot at or after the target, in the section of the
target and around its end, is reserved and shown in R61; a PUSHC also posts its Connection ID. When
every slot of the section is reserved, only the error flag of R60 and R61, which is left open (log 15),
change; the wrap inside the section is the spec's decision D47 (43 R292, R297 to R299). -/
def Obligations.PushAction : Prop :=
  ∀ (s : State) (o : CssOp) (rest : List CssOp), s.cssq = o :: rest →
    let len := 2048 * 2 ^ (s.regs[60].extractLsb' 12 2).toNat
    let slot (k : Nat) : Nat := o.t.toNat - o.t.toNat % len + (o.t.toNat % len + k) % len
    (∀ k, k < len → (∀ j, j < k → Memory.read s.sb (slot j) = some true) →
      Memory.read s.sb (slot k) = some false →
      (o.kind = .pushf →
        ∃ t, perform s .css = .ok t ∧ Memory.read t.sb (slot k) = some true ∧
          (∀ a, a ≠ slot k → Memory.read t.sb a = Memory.read s.sb a) ∧
          t.regs[61] = BitVec.ofNat 16 (slot k) ∧ (∀ r : Reg, r ≠ 61 → t.regs[r] = s.regs[r]) ∧
          t = { s with cssq := rest, sb := t.sb, regs := t.regs, draws := t.draws }) ∧
        (o.kind = .pushc → cidAddr s (slot k) < fmLimit s (modeBit s 4) → s.wbuf.length < 4 →
          ∃ t, perform s .css = .ok t ∧ Memory.read t.sb (slot k) = some true ∧
            (∀ a, a ≠ slot k → Memory.read t.sb a = Memory.read s.sb a) ∧
            t.regs[61] = BitVec.ofNat 16 (slot k) ∧ (∀ r : Reg, r ≠ 61 → t.regs[r] = s.regs[r]) ∧
            t.wbuf = s.wbuf ++ [(cidAddr s (slot k), o.cid)] ∧
            t = { s with cssq := rest, sb := t.sb, regs := t.regs, wbuf := t.wbuf,
                         icWords := t.icWords, draws := t.draws })) ∧
      ((o.kind = .pushc ∨ o.kind = .pushf) →
        (∀ j, j < len → Memory.read s.sb (slot j) = some true) →
        ∃ t, perform s .css = .ok t ∧ t.regs[60] = s.regs[60] ||| 0x8000 ∧
          (∀ r : Reg, r ≠ 60 → r ≠ 61 → t.regs[r] = s.regs[r]) ∧
          t = { s with cssq := rest, regs := t.regs, draws := t.draws })

/-- The Connection ID table address: bits [18:15] are R60[11:8], bits [14:1] the slot, bit 0 is 0; an
entry is one halfword, and the table lies in one 32-KByte block of the first 512 KBytes (20 R106). -/
def Obligations.ConnectionAddress : Prop :=
  ∀ (s : State) (slot : BitVec 14),
    let a : BitVec 19 := s.regs[60].extractLsb' 8 4 ++ slot ++ (0 : BitVec 1)
    cidAddr s slot.toNat = a.toNat ∧ a.toNat + 1 < 0x80000 ∧
      a.toNat / 0x8000 = (s.regs[60].extractLsb' 8 4).toNat

/-! ### DMA -/

/-- DMA1R, DMA1W, DMA2R and DMA2W complete by issuing their command to their port, and wait while the
port's three places are taken (44 R320 to R333, R338; 10 R76). -/
def Obligations.DmaIssue : Prop :=
  ∀ (s : State) (bc : BitVec 8) (rla : Rla) (rsa : Reg) (ibi crcx crcy pod st : Bool)
    (rsb : SReg),
    Issues (.dma1r bc rla rsa ibi crcx crcy pod st rsb) s
        { port2 := false, write := false, bc := bc.toNat, rla := rla, rsa := rsa, ibi := ibi,
          crcx := crcx, crcy := crcy, pod := pod, st := st, rsb := rsb } ∧
      Issues (.dma1w bc rla rsa ibi crcx crcy pod st rsb) s
        { port2 := false, write := true, bc := bc.toNat, rla := rla, rsa := rsa, ibi := ibi,
          crcx := crcx, crcy := crcy, pod := pod, st := st, rsb := rsb } ∧
      Issues (.dma2r bc rla rsa ibi pod rsb) s
        { port2 := true, write := false, bc := bc.toNat, rla := rla, rsa := rsa, ibi := ibi,
          pod := pod, rsb := rsb } ∧
      Issues (.dma2w bc rla rsa ibi pod rsb) s
        { port2 := true, write := true, bc := bc.toNat, rla := rla, rsa := rsa, ibi := ibi,
          pod := pod, rsb := rsb }

/-- The "+" forms complete by issuing the same command and scheduling the increment of their register
by 64 modulo 512, and wait while their port's three places are taken; on a constant they stop, the spec's
decision D25 (10 R49; 44 R321, R327). -/
def Obligations.DmaPlusIssue : Prop :=
  ∀ (s : State) (bc : BitVec 7) (rla : Rla) (rsa : Reg) (ibi crcx crcy pod st : Bool)
    (rsb : SReg),
    let o1 (w : Bool) : DmaOp :=
      { port2 := false, write := w, bc := bc.toNat, rla := rla, rsa := rsa, ibi := ibi,
        crcx := crcx, crcy := crcy, pod := pod, st := st, rsb := rsb, plus := true }
    let o2 (w : Bool) : DmaOp :=
      { port2 := true, write := w, bc := bc.toNat, rla := rla, rsa := rsa, ibi := ibi,
        pod := pod, rsb := rsb, plus := true }
    Issues (.dma1rPlus bc rla rsa ibi crcx crcy pod st rsb) s (o1 false) ∧
      Issues (.dma1wPlus bc rla rsa ibi crcx crcy pod st rsb) s (o1 true) ∧
      Issues (.dma2rPlus bc rla rsa ibi pod rsb) s (o2 false) ∧
      Issues (.dma2wPlus bc rla rsa ibi pod rsb) s (o2 true) ∧
      (rlaReg rla = none →
        (DmaControl s (o1 false) →
          exec (.dma1rPlus bc rla rsa ibi crcx crcy pod st rsb) s =
            .fault .rlaConstantIncrement) ∧
        (DmaControl s (o1 true) →
          exec (.dma1wPlus bc rla rsa ibi crcx crcy pod st rsb) s =
            .fault .rlaConstantIncrement) ∧
        (DmaControl s (o2 false) →
          exec (.dma2rPlus bc rla rsa ibi pod rsb) s = .fault .rlaConstantIncrement) ∧
        (DmaControl s (o2 true) →
          exec (.dma2wPlus bc rla rsa ibi pod rsb) s = .fault .rlaConstantIncrement))

/-- The command a DMA instruction issues: its direction, the contents of `rsa` and `rsb` as port
address, the local address of its `rla` operand (a register, or a gather constant), its POD and ST bits,
nothing moved yet; and its effective count and CRC selection: from the instruction when IBI is 1, from R52
otherwise; only DMA1R keeps an odd count, and Port2 has no CRC (44 R323 to R325; 30 R152). -/
def Obligations.DmaCommandCount : Prop :=
  ∀ (s : State) (o : DmaOp),
    let n0 := if o.ibi then o.bc else ((readVal .dma s 52).extractLsb' 0 8).toNat
    let cx := if o.ibi then o.crcx else (readVal .dma s 52).getLsbD 9
    let cy := if o.ibi then o.crcy else (readVal .dma s 52).getLsbD 8
    let c := dmaCmdOf s o
    (c.write = o.write ∧ c.a = readVal .dma s o.rsa ∧ c.b = readVal .dma s (sw o.rsb) ∧
      c.pod = o.pod ∧ c.silent = o.st ∧ c.started = false ∧ c.pos = 0) ∧
      (o.rla = .r48 → c.l = readVal .dma s 48) ∧ (o.rla = .r49 → c.l = readVal .dma s 49) ∧
      (o.rla = .r50 → c.l = readVal .dma s 50) ∧ (o.rla = .r51 → c.l = readVal .dma s 51) ∧
      (o.rla = .ga → c.l = 0x0400) ∧ (o.rla = .gb → c.l = 0x0420) ∧ (o.rla = .gc → c.l = 0x0440) ∧
      (o.rla = .gd → c.l = 0x0460) ∧
      (o.port2 = false → o.write = false → c.n = n0) ∧
      ((o.port2 = true ∨ o.write = true) → c.n % 2 = 0 ∧ c.n ≤ n0 ∧ n0 ≤ c.n + 1) ∧
      (o.port2 = true → c.crcSel = .none) ∧
      (o.port2 = false → (c.crcSel = .x ↔ cx = true) ∧ (cx = false → (c.crcSel = .y ↔ cy = true)))

/-- A "+" increment is owed for one instruction and applied by the next, whatever the instructions are:
after the instruction that follows the DMA the register still holds the old value, after the second the
new one, and neither can write the register itself; the timing is the spec's decision D15 (44 R327). -/
def Obligations.PlusSchedule : Prop :=
  ∀ (s : State) (p : PlusInc), PendingForm s → s.plus = [p] →
    (∀ (i : Instr) (t : State), Completes i s t →
      (p.age = 0 → t.regs[p.r] = s.regs[p.r] ∧ { p with age := 1 } ∈ t.plus ∧
        ∀ q ∈ t.plus, q.r = p.r → q = { p with age := 1 }) ∧
        (p.age = 1 → t.regs[p.r] = p.new ∧ ∀ q ∈ t.plus, q.r ≠ p.r)) ∧
      (AluReady s [] 36 false 0 none →
        ∃ t, Completes .nop s t ∧ (∀ r : Reg, r ≠ p.r → t.regs[r] = s.regs[r]) ∧
          (p.age = 0 → t.plus = [{ p with age := 1 }]) ∧ (p.age = 1 → t.plus = []))

/-- The Port2 controller moves one halfword between the Cell Buffer RAM and the Port2 space of the
command, at the addresses of 51 R463 and 20 R110, and changes no other byte; one halfword a step is the
spec's decision D50, and that halfword k of a burst is at H + k its decision D53 (44 R322, R332, R333; 51
R463). -/
def Obligations.DmaPort2Moves : Prop :=
  ∀ (s : State) (c : DmaCmd) (rest : List DmaCmd), s.q2 = c :: rest → c.started = true →
    c.pos < c.n →
    let local' := cbPhys (c.l + BitVec.ofNat 16 c.pos)
    let port := 2 * port2Half c + c.pos
    (c.write = true → ∀ h : Half, readHalf s.cb local' = some h →
      ∃ t, perform s .dma2 = .ok t ∧ readHalf (port2Space t c) port = some h ∧
        (∀ a, a ≠ port → a ≠ port + 1 →
          Memory.read (port2Space t c) a = Memory.read (port2Space s c) a) ∧
        t.q2 = { c with pos := c.pos + 2 } :: rest ∧
        t = (if isBurst c then { s with q2 := t.q2, p2b := t.p2b, draws := t.draws }
             else { s with q2 := t.q2, p2n := t.p2n, draws := t.draws })) ∧
      (c.write = false → ∀ b0 b1 : Byte, Memory.read (port2Space s c) port = some b0 →
        Memory.read (port2Space s c) (port + 1) = some b1 →
        ∃ t, perform s .dma2 = .ok t ∧ readHalf t.cb local' = some (halfOf b0 b1) ∧
          (∀ a, a ≠ local' → a ≠ local' + 1 → Memory.read t.cb a = Memory.read s.cb a) ∧
          t.q2 = { c with pos := c.pos + 2 } :: rest ∧
          t = { s with q2 := t.q2, cb := t.cb, draws := t.draws })

/-- The Port1 controller moves one halfword, feeds it to the running CRC where a pair is selected, and keeps
the last byte of an odd read aside, the halfword it belongs to unwritten (D55); a read that starts at an
odd local address pairs the byte kept aside with its first byte; a silent read stores the complement of
the partial CRC, its high halfword first; no other byte changes (44 R322, R331, R334 to R336; decisions
D50, D55; log 11; log 47 for D55 beside R336). -/
def Obligations.DmaPort1Moves : Prop :=
  ∀ (s : State) (c : DmaCmd) (rest : List DmaCmd), s.q1 = c :: rest → c.started = true →
    c.pos < c.n →
    let local' := cbPhys (c.l + BitVec.ofNat 16 c.pos)
    let port := c.a.toNat * 0x10000 + (c.b.toNat + c.pos) % 0x10000
    let fed (h : Half) := if c.crcSel = .none then c.crc else crc32Step s.cfg c.crc h
    (c.write = true → ∀ h : Half, readHalf s.cb local' = some h →
      ∃ t, perform s .dma1 = .ok t ∧
        t.q1 = { c with pos := c.pos + 2, crc := fed h } :: rest ∧
        (c.silent = true → t = { s with q1 := t.q1, draws := t.draws }) ∧
        (c.silent = false → readHalf t.p1 port = some h ∧
          (∀ a, a ≠ port → a ≠ port + 1 → Memory.read t.p1 a = Memory.read s.p1 a) ∧
          t = { s with q1 := t.q1, p1 := t.p1, draws := t.draws })) ∧
      (c.write = false → c.silent = true →
        ∃ t, perform s .dma1 = .ok t ∧
          readHalf t.cb local' =
            some (~~~ (c.crc.extractLsb' (if c.pos = 0 then 16 else 0) 16)) ∧
          (∀ a, a ≠ local' → a ≠ local' + 1 → Memory.read t.cb a = Memory.read s.cb a) ∧
          t.q1 = { c with pos := c.pos + 2 } :: rest ∧
          t = { s with q1 := t.q1, cb := t.cb, draws := t.draws }) ∧
      (c.write = false → c.silent = false → c.l.getLsbD 0 = true → c.pos = 0 → ∀ b r0 : Byte,
        Memory.read s.p1 port = some b → s.residue = some r0 →
        ∃ t, perform s .dma1 = .ok t ∧ readHalf t.cb (cbPhys (c.l - 1)) = some (halfOf r0 b) ∧
          (∀ a, a ≠ cbPhys (c.l - 1) → a ≠ cbPhys (c.l - 1) + 1 →
            Memory.read t.cb a = Memory.read s.cb a) ∧
          t.q1 = { c with pos := 1, crc := fed (halfOf r0 b) } :: rest ∧
          t = { s with q1 := t.q1, cb := t.cb, draws := t.draws }) ∧
      (c.write = false → c.silent = false → (c.l.getLsbD 0 = true → c.pos ≠ 0) → ∀ b0 : Byte,
        Memory.read s.p1 port = some b0 →
        (∀ b1 : Byte, c.pos + 1 ≠ c.n →
          Memory.read s.p1 (c.a.toNat * 0x10000 + (c.b.toNat + (c.pos + 1)) % 0x10000) = some b1 →
          ∃ t, perform s .dma1 = .ok t ∧ readHalf t.cb local' = some (halfOf b0 b1) ∧
            (∀ a, a ≠ local' → a ≠ local' + 1 → Memory.read t.cb a = Memory.read s.cb a) ∧
            t.q1 = { c with pos := c.pos + 2, crc := fed (halfOf b0 b1) } :: rest ∧
            t = { s with q1 := t.q1, cb := t.cb, draws := t.draws }) ∧
        (c.pos + 1 = c.n →
          ∃ t, perform s .dma1 = .ok t ∧ t.residue = some b0 ∧ readHalf t.cb local' = none ∧
            (∀ a, a ≠ local' → a ≠ local' + 1 → Memory.read t.cb a = Memory.read s.cb a) ∧
            t.q1 = { c with pos := c.n } :: rest ∧
            t = { s with q1 := t.q1, cb := t.cb, residue := t.residue, draws := t.draws }))

/-- A command that has moved all its bytes leaves its queue: a Port2 command counts in the
Port2-DMAs-completed counter, modulo 8 by the spec's decision D33 (10 R80); a Port1 command leaves its
running value in its CRC pair; and the post-DMA directive decrements RXFULL after a write and increments
TXBUSY after a read, a silent one among them, which leaves its CRC pair open, the spec's decision D56
(log 15). A zero-byte command has moved all its bytes too, and that it performs its directive and counts
is the spec's decision D54 (44 R333) (44 R322, R334, R335, R337). -/
def Obligations.DmaCompletes : Prop :=
  ∀ (s : State) (c : DmaCmd) (rest : List DmaCmd), c.started = true → c.n ≤ c.pos →
    (c.pod = true → c.write = true → s.rxfull ≠ 0) →
    (c.pod = true → c.write = false → s.txbusy < txSizeOf s.regs[62]) →
    let rxfull := if c.pod && c.write then s.rxfull - 1 else s.rxfull
    let txbusy := if c.pod && ! c.write then s.txbusy + 1 else s.txbusy
    (s.q2 = c :: rest →
      ∃ t, perform s .dma2 = .ok t ∧ t.dma2Count.toNat = (s.dma2Count.toNat + 1) % 8 ∧
        t = { s with q2 := rest, dma2Count := t.dma2Count, rxfull := rxfull, txbusy := txbusy,
                     draws := t.draws }) ∧
      (s.q1 = c :: rest → c.silent = false ∨ c.write = true →
        ∃ t, perform s .dma1 = .ok t ∧ (c.crcSel = .x → crcX t = c.crc) ∧
          (c.crcSel = .y → crcY t = c.crc) ∧ (c.crcSel ≠ .x → crcX t = crcX s) ∧
          (c.crcSel ≠ .y → crcY t = crcY s) ∧
          (∀ r : Reg, r.val < 44 ∨ 47 < r.val → t.regs[r] = s.regs[r]) ∧
          t = { s with q1 := rest, regs := t.regs, rxfull := rxfull, txbusy := txbusy,
                       draws := t.draws }) ∧
      (s.q1 = c :: rest → c.silent = true → c.write = false →
        ∃ t, perform s .dma1 = .ok t ∧ (c.crcSel ≠ .x → crcX t = crcX s) ∧
          (c.crcSel ≠ .y → crcY t = crcY s) ∧
          (∀ r : Reg, r.val < 44 ∨ 47 < r.val → t.regs[r] = s.regs[r]) ∧
          t = { s with q1 := rest, regs := t.regs, txbusy := txbusy, draws := t.draws })

/-! ### Fast Memory -/

/-- LMFM completes by giving the Fast Memory controller a load job, and under LNK replaces the link
(45 R364, R365, R368). -/
def Obligations.LmfmIssue : Prop :=
  ∀ (s : State) (rd : Reg) (lnk z : Bool) (rsa : Reg) (hw : BitVec 5) (rsb : SReg),
    let o : LmfmOp := { rd := rd, lnk := lnk, z := z, rsa := rsa, n := hw.toNat, rsb := rsb }
    LmfmReady s o → ∃ t, exec (.lmfm rd lnk z rsa hw rsb) s = .next t ∧ LmfmIssued s t o

/-- SHFM and SRH complete by posting a halfword: SHFM posts R56 at `rsa[3:0]:rsb`, SRH its data
register at that address, with its low bits replaced, or in the block of a holding register whose command
is done (45 R366, R367; 20 R103; 44 R338). -/
def Obligations.FmStoreIssue : Prop :=
  ∀ (s : State) (rsa : Reg) (rsb : SReg) (reg : BitVec 3) (lsbs : BitVec 5),
    let a : BitVec 20 := (readVal .other s rsa).extractLsb' 0 4 ++ readVal .other s (sw rsb)
    let src : Reg := #v[56, 37, 38, 39, 44, 45, 46, 47][reg.toNat]
    let low (b : BitVec 20) : BitVec 20 := b.extractLsb' 5 15 ++ lsbs
    (FmStoreReady s .none [rsa, sw rsb] 56 a →
      ∃ t, exec (.shfm rsa rsb) s = .next t ∧ FmStorePosted s t [rsa, sw rsb] 56 a) ∧
      (FmStoreReady s .none [rsa, sw rsb] src a →
        ∃ t, exec (.srh 0 reg rsa lsbs rsb) s = .next t ∧
          FmStorePosted s t [rsa, sw rsb] src a) ∧
      (FmStoreReady s .none [rsa, sw rsb] src (low a) →
        ∃ t, exec (.srh 1 reg rsa lsbs rsb) s = .next t ∧
          FmStorePosted s t [rsa, sw rsb] src (low a)) ∧
      (FmStoreReady s .x [] src (low s.holdX) →
        ∃ t, exec (.srh 2 reg rsa lsbs rsb) s = .next t ∧
          FmStorePosted s t [] src (low s.holdX)) ∧
      (FmStoreReady s .y [] src (low s.holdY) →
        ∃ t, exec (.srh 3 reg rsa lsbs rsb) s = .next t ∧
          FmStorePosted s t [] src (low s.holdY))

/-- After a link by one of the five optimised registers at an aligned address, an Update Memory
write-back of the k-th register of the group goes to the location it was loaded from (45 R368,
R369(a)). -/
def Obligations.UpdateAddress : Prop :=
  ∀ (s : State) (rd r : Reg) (a : BitVec 20) (k : Nat), rd ∈ [16, 24, 28, 30, 31] →
    a.getLsbD 0 = false → a.extractLsb' 1 4 &&& ~~~ reg4 rd = 0 → k < 16 - rd.val % 16 →
    r.val = rd.val + k → umAddr (setLink s rd a) r = a + BitVec.ofNat 20 (2 * k)

/-- The Fast Memory controller delivers the next halfword of the oldest load job to its register as a
program write would, and changes no byte of memory; where a write of the halfword is still buffered it
delivers the old or the new one, the spec's decision D36 (log 41). The first one of a linked job goes to
R58 as well, with its bits [15:12] zero, which is the decision D67 (10 R62); BF and BFL may use R58 at
once, and an ordinary read of it by an instruction that is no ALU or DMA instruction ends right then in
WriteDelayHazard, which is the decision D11 under hazard_mode = fault. The controller retires the oldest
posted write into its two bytes and no others, but not while a burst is under way; that it drains oldest
first, one entry at a time, is D36 too (20 R120; 42 R270; 45 R360, R364, R365; 70 R560, R563). -/
def Obligations.FmDelivery : Prop :=
  (∀ (s : State) (j : LmfmJob) (rest : List LmfmJob) (r : Reg),
    s.fmJobs = j :: rest → r.val = j.rd.val + j.k →
    (∃ v, MayRead s (j.addr + 2 * j.k) v) →
    (∀ v, MayRead s (j.addr + 2 * j.k) v → writeCheck s r v = .ok ()) →
    ∃ t v, MayRead s (j.addr + 2 * j.k) v ∧ perform s .fmcLoad = .ok t ∧
      t.regs[r] = storedAs s r v ∧
      (j.lnk = true → j.k = 0 → t.regs[58] = v &&& 0x0FFF ∧
        (accessOne t 58 = .ok () →
          Readable .branch t 58 ∧ readVal .branch t 58 = v &&& 0x0FFF ∧
          (s.cfg.hazardMode = .fault →
            readCheck .other t 58 = .error (.fault (.writeDelayHazard 58 0))))) ∧
      (∀ q : Reg, q ≠ r → (q = 58 → ¬ (j.lnk = true ∧ j.k = 0)) →
        (q = 61 → cssResets r v = false) → t.regs[q] = s.regs[q]) ∧
      SameBytes s t ∧ (cssResets r v = false → SameBits s t) ∧
      t.fmJobs = (if j.k + 1 < j.n then { j with k := j.k + 1 } :: rest else rest)) ∧
    ∀ (s : State) (a : Nat) (v : Half) (rest : List (Nat × Half)), s.wbuf = (a, v) :: rest →
      (burstActive s = false →
        ∃ t, perform s .fmcDrain = .ok t ∧ readHalf t.fm a = some v ∧
          (∀ b, b ≠ a → b ≠ a + 1 → Memory.read t.fm b = Memory.read s.fm b) ∧
          t = { s with wbuf := rest, fm := t.fm, draws := t.draws }) ∧
        (burstActive s = true → perform s .fmcDrain = .error .stall)

/-! ### The internal RAM -/

/-- LD and LDD complete by giving the load/store unit their load; the halfword swap exchanges the
registers of the pair, and stops a single load (decision D16); an LDD of R63 and a swap from the Scoreboard
stop (D25), and so does a gather address outside its window (D35) (46 R390, R393, R396, R397; 20 R110). -/
def Obligations.LoadIssue : Prop :=
  ∀ (s : State) (rd : Reg) (rla : Rla) (swap : BitVec 2) (idx : BitVec 5),
    let t0 := target (rlaVal .other s rla) idx
    (swap.getLsbD 1 = false → LoadReady s rla swap t0 [rd] →
      ∃ t, exec (.ld rd rla swap idx) s = .next t ∧
        LsuIssued s t [] (.load1 t0 rd (swap.getLsbD 0))) ∧
      (swap.getLsbD 1 = true → exec (.ld rd rla swap idx) s = .fault .swapUndefined) ∧
      (∀ r2 : Reg, r2.val = rd.val + 1 → LoadReady s rla swap t0 [rd, r2] →
        ∃ t, exec (.ldd rd rla swap idx) s = .next t ∧
          LsuIssued s t [] (.load2 t0 (if swap.getLsbD 1 then r2 else rd)
            (if swap.getLsbD 1 then rd else r2) (swap.getLsbD 0) false)) ∧
      (rd = 63 → exec (.ldd rd rla swap idx) s = .fault .operandClass) ∧
      (SourcesReady .other s (rlaRegs rla) → rd ≠ 61 → destCheck s rd = .ok () →
        (swap.getLsbD 1 = false →
          (t0.getLsbD 11 = true → swap ≠ 0 → exec (.ld rd rla swap idx) s = .fault .scoreboardSwap) ∧
            (OutsideGather t0 → exec (.ld rd rla swap idx) s = .fault .gatherOutOfRange)) ∧
          ∀ r2 : Reg, r2.val = rd.val + 1 → r2 ≠ 61 → destCheck s r2 = .ok () →
            (t0.getLsbD 11 = true → swap ≠ 0 →
              exec (.ldd rd rla swap idx) s = .fault .scoreboardSwap) ∧
              (OutsideGather t0 → exec (.ldd rd rla swap idx) s = .fault .gatherOutOfRange))

/-- ST and STD complete by giving the load/store unit their store, the bytes exchanged under the byte swap
and the registers under the halfword swap (decision D16); a second store waits for the first. They stop
on a target they cannot store to: ST on the Scoreboard, and with a swap by ScoreboardSwap, as STD does
(D25); STD on the Scoreboard while the Cell Scheduling System works (D46); both on a gather address
outside its window (D35) (46 R390, R393, R398, R399; 10 R74; 20 R110; 43 R300). -/
def Obligations.StoreIssue : Prop :=
  ∀ (s : State) (rsa : Reg) (rsb : SReg) (rla : Rla) (swap : BitVec 2) (idx : BitVec 5),
    let t0 := target (rlaVal .other s rla) idx
    let x := swapb (swap.getLsbD 0) (readVal .other s rsa)
    let y := swapb (swap.getLsbD 0) (readVal .other s (sw rsb))
    (swap.getLsbD 1 = false → t0.getLsbD 11 = false → StoreReady s rla swap t0 [rsa] →
      ∃ t, exec (.st swap rla rsa idx) s = .next t ∧ LsuIssued s t [rsa] (.store1 t0 x)) ∧
      (swap.getLsbD 1 = true → exec (.st swap rla rsa idx) s = .fault .swapUndefined) ∧
      (StoreReady s rla swap t0 [rsa, sw rsb] →
        ∃ t, exec (.std swap rla rsa idx rsb) s = .next t ∧
          LsuIssued s t [rsa, sw rsb] (.store2 t0 (if swap.getLsbD 1 then y else x)
            (if swap.getLsbD 1 then x else y) false)) ∧
      (∀ o ∈ s.lsu, isStore o = true → SourcesReady .other s ([rsa] ++ rlaRegs rla) →
        TargetOk t0 swap → CanAdvance s → swap.getLsbD 1 = false → t0.getLsbD 11 = false →
        exec (.st swap rla rsa idx) s = .next (waiting s)) ∧
      (SourcesReady .other s ([rsa] ++ rlaRegs rla) → swap.getLsbD 1 = false →
        (t0.getLsbD 11 = true → exec (.st swap rla rsa idx) s =
          .fault (if swap = 0 then .scoreboardHalfwordStore else .scoreboardSwap)) ∧
          (OutsideGather t0 → exec (.st swap rla rsa idx) s = .fault .gatherOutOfRange)) ∧
      (SourcesReady .other s ([rsa, sw rsb] ++ rlaRegs rla) →
        (t0.getLsbD 11 = true → swap ≠ 0 →
          exec (.std swap rla rsa idx rsb) s = .fault .scoreboardSwap) ∧
          (t0.getLsbD 11 = true → swap = 0 → s.cssq ≠ [] →
            exec (.std swap rla rsa idx rsb) s = .fault .cssConfigBusy) ∧
          (OutsideGather t0 → exec (.std swap rla rsa idx rsb) s = .fault .gatherOutOfRange))

/-- The target address: bits [15:6] of the local address, its bits [5:1] exclusive-ORed with the index,
and bit 0 zero; the second halfword of a pair is at the target XOR 2, the other half of the same four
bytes, below the first when bit 1 of the target is 1 (46 R394; 20 R112). -/
def Obligations.TargetAddress : Prop :=
  ∀ (l : Half) (idx : BitVec 5),
    let t := target l idx
    t = (l.extractLsb' 6 10 ++ (l.extractLsb' 1 5 ^^^ idx) ++ (0 : BitVec 1) : Half) ∧
      partner t = t ^^^ 2 ∧ (partner t).toNat / 4 = t.toNat / 4 ∧ partner (partner t) = t ∧
      (t.getLsbD 1 = true → (partner t).toNat + 2 = t.toNat) ∧
      (t.getLsbD 1 = false → (partner t).toNat = t.toNat + 2)

/-- The load/store unit lands a load as a program write would: an LD at once, an LDD of the Cell Buffer
RAM in two accesses, the one at the target first and then that at the target XOR 2, which is the spec's
choice D59; an LDD of the Scoreboard (shown for software registers) in one; no byte of memory changes (46
R395 to R397). -/
def Obligations.LsuLoads : Prop :=
  ∀ (s : State) (rest : List LsuOp) (t0 : Half) (ra rb : Reg) (swap : Bool) (h : Half),
    (∀ t1 : Half, ∀ r : Reg, localRead s t1 = some h → writeCheck s r (swapb swap h) = .ok () →
      (s.lsu = .load1 t1 r swap :: rest ∨
        (t1 = t0 ∧ r = ra ∧ s.lsu = .load2 t0 ra rb swap false :: rest ∧
          t0.getLsbD 11 = false) ∨
        (t1 = t0 ^^^ 2 ∧ r = rb ∧ s.lsu = .load2 t0 ra rb swap true :: rest)) →
      ∃ t, perform s .lsu = .ok t ∧ t.regs[r] = storedAs s r (swapb swap h) ∧
        (∀ q ∉ (if cssResets r (swapb swap h) then [r, 61] else [r]),
          t.regs[q] = s.regs[q]) ∧
        SameBytes s t ∧ (cssResets r (swapb swap h) = false → SameBits s t) ∧
        t.lsu = (if s.lsu = .load2 t0 ra rb swap false :: rest then
          .load2 t0 ra rb swap true :: rest else rest)) ∧
      (∀ h2 : Half, s.lsu = .load2 t0 ra rb swap false :: rest → t0.getLsbD 11 = true →
        ra.val < 32 → rb.val < 32 → ra ≠ rb → localRead s t0 = some h →
        localRead s (t0 ^^^ 2) = some h2 →
        ∃ t, perform s .lsu = .ok t ∧ t.regs[ra] = swapb swap h ∧ t.regs[rb] = swapb swap h2 ∧
          (∀ q : Reg, q ≠ ra → q ≠ rb → t.regs[q] = s.regs[q]) ∧ SameMemory s t ∧
          t = { s with lsu := rest, regs := t.regs, draws := t.draws })

/-- The load/store unit stores a halfword of the Cell Buffer RAM at the physical address of its target,
and changes no other byte; an STD takes two accesses, the one at the target first and then that at the
target XOR 2, the order and the partner being the spec's choice D59; an STD to the Scoreboard writes its
two entries in one access, and no bit of another entry (46 R398, R399; 20 R110, R111; 43 R291, R300). -/
def Obligations.LsuStores : Prop :=
  (∀ (s : State) (rest : List LsuOp) (t0 x y : Half) (t1 v : Half),
    t1.getLsbD 11 = false →
    (s.lsu = .store1 t1 v :: rest ∨
      (t1 = t0 ∧ v = x ∧ s.lsu = .store2 t0 x y false :: rest) ∨
      (t1 = t0 ^^^ 2 ∧ v = y ∧ s.lsu = .store2 t0 x y true :: rest)) →
    ∃ t, perform s .lsu = .ok t ∧ readHalf t.cb (cbPhys t1) = some v ∧
      (∀ a, a ≠ cbPhys t1 → a ≠ cbPhys t1 + 1 → Memory.read t.cb a = Memory.read s.cb a) ∧
      t.lsu = (if s.lsu = .store2 t0 x y false :: rest then .store2 t0 x y true :: rest
        else rest) ∧
      t = { s with lsu := t.lsu, cb := t.cb, draws := t.draws }) ∧
    ∀ (s : State) (rest : List LsuOp) (t0 x y : Half),
      s.lsu = .store2 t0 x y false :: rest → t0.getLsbD 11 = true →
      ∃ t, perform s .lsu = .ok t ∧ sbRead t.sb (sbMsb s) (sbEntry t0) = some x ∧
        sbRead t.sb (sbMsb s) (sbEntry (t0 ^^^ 2)) = some y ∧
        (∀ n, n / 16 ≠ sbEntry t0 → n / 16 ≠ sbEntry (t0 ^^^ 2) →
          Memory.read t.sb n = Memory.read s.sb n) ∧
        t = { s with lsu := rest, sb := t.sb, draws := t.draws }

/-! ### The UTOPIA port -/

/-- The receiver stores the next halfword of its cell in the Cell Buffer RAM, the second header halfword
reduced where R62[0] asks for it; after the last one it stores the status word, counts the cell in RXBUSY
and RXFULL, and goes on to the next holder; no other byte changes (50 R427 to R429, R432, R433; the check
functions and the header layout are PRESUMED, log 11). -/
def Obligations.ReceiveCell : Prop :=
  ∀ (s : State) (c : RxCell), s.rxCell = some c →
    let len := c.img.length
    let base := 64 * s.rxIdx
    (2 * c.k < len → ∀ v : Half,
      (if s.regs[62].getLsbD 0 = true ∧ 2 * c.k + 2 = len - 48 then
        reduce (s.regs[63].extractLsb' 0 7) c.img = .ok v
       else v = halfOf (octet c.img (2 * c.k)) (octet c.img (2 * c.k + 1))) →
      let a := base + (if len = 52 then 4 else 0) + 2 * c.k
      ∃ t, perform s .rx = .ok t ∧ readHalf t.cb a = some v ∧
        (∀ b, b ≠ a → b ≠ a + 1 → Memory.read t.cb b = Memory.read s.cb b) ∧
        t = { s with cb := t.cb, rxCell := some { c with k := c.k + 1 }, draws := t.draws }) ∧
      (len ≤ 2 * c.k → s.rxbusy < rxSizeOf s.regs[62] → s.rxfull < rxSizeOf s.regs[62] →
        let a := base + (if len = 52 then 2 else 0x38)
        ∃ t, perform s .rx = .ok t ∧
          (∃ w : Half, readHalf t.cb a = some w ∧ w.extractLsb' 0 5 = c.phy ∧
            w.extractLsb' 5 3 = (headerByte c.img 3).extractLsb' 1 3 ∧
            (w.getLsbD 8 = true ↔ crc10 s.cfg (sarPdu c.img) ≠ 0) ∧
            ∀ h : Byte, c.hec = some h →
              (w.getLsbD 9 = true ↔ h ≠ hec8 s.cfg (headerWord c.img))) ∧
          (∀ b, b ≠ a → b ≠ a + 1 → Memory.read t.cb b = Memory.read s.cb b) ∧
          t = { s with cb := t.cb, rxbusy := s.rxbusy + 1, rxfull := s.rxfull + 1,
                       rxIdx := (s.rxIdx + 1) % rxSizeOf s.regs[62], rxCell := none,
                       draws := t.draws })

/-- The transmitter starts the cell of the oldest control entry when its PHY is ready and takes one from
TXBUSY, reads its octets from the Cell Buffer RAM, and hands the cell over and takes one from TXFULL; it
changes no byte of memory. An entry with the I bit sends an unassigned cell (the parameter of decision
D10) and reads nothing; that it counts in TXBUSY and TXFULL like any cell, that CG is ignored on it, and
that the parameter keeps only the holder index, is the spec's decision D60, as log 27 reads it; one with
the CG bit has the last ten bits of its cell replaced by their CRC10; with a 16-bit stuffer the HEC is
followed by an open octet (50 R425, R430, R431, R434, R435; HEC8 and CRC10 are PRESUMED, log 11). -/
def Obligations.TransmitCell : Prop :=
  ∀ s : State,
    (let e := s.fifo[s.fifoRd]
     txSizeOf s.regs[62] ≠ 0 → s.txCell = none → s.txbusy ≠ 0 →
      (entryPhy e).toNat ≤ (topPhy s).toNat →
      ∃ t d, perform s (.txReady (entryPhy e)) = .ok t ∧
        (entryI e = false → d = { entry := e, img := [], k := 0 }) ∧
        (entryI e = true → d.entry = e ∧ d.img.length = cellLength s ∧ cellLength s ≤ 2 * d.k ∧
          (s.cfg.unassigned = .zeroHeader → ∀ k, cellLength s ≤ k + 52 → k + 48 < cellLength s →
            octet d.img k = 0) ∧
          ∀ l52 l56, s.cfg.unassigned = .given l52 l56 → ∀ k, k < cellLength s →
            octet d.img k = octet (if cellLength s = 52 then l52 else l56) k) ∧
        t = { s with txbusy := s.txbusy - 1, fifoRd := s.fifoRd + 1,
                     txCell := some d, draws := t.draws }) ∧
      (∀ (c : TxCell) (v : Half), s.txCell = some c → 2 * c.k < cellLength s →
        readHalf s.cb (0x200 + 64 * s.txIdx + (if cellLength s = 52 then 4 else 0) + 2 * c.k) =
          some v →
        ∃ t d, perform s .tx = .ok t ∧ d.img.length = c.img.length + 2 ∧
          d.img.take c.img.length = c.img ∧
          halfOf (octet d.img c.img.length) (octet d.img (c.img.length + 1)) = v ∧
          d.entry = c.entry ∧ d.k = c.k + 1 ∧
          t = { s with txCell := some d, draws := t.draws }) ∧
      (∀ c : TxCell, s.txCell = some c → cellLength s ≤ 2 * c.k → s.txfull ≠ 0 →
        c.img.length = cellLength s →
        ∃ t img o, perform s .tx = .ok t ∧
          (entryI c.entry = true ∨ entryCg c.entry = false → img = c.img) ∧
          (entryI c.entry = false → entryCg c.entry = true →
            let n := cellLength s
            img.length = n ∧ (∀ k, k + 2 < n → octet img k = octet c.img k) ∧
            (octet img (n - 2)).extractLsb' 2 6 = (octet c.img (n - 2)).extractLsb' 2 6 ∧
            ((octet img (n - 2)).extractLsb' 0 2 ++ octet img (n - 1) : BitVec 10) =
              crc10 s.cfg (sarPdu (c.img.take (n - 2) ++ [octet c.img (n - 2) &&& 0xFC, 0]))) ∧
          (hecOn s = false → o = img) ∧
          (hecOn s = true → s.regs[62].getLsbD 8 = true →
            o = img.take (img.length - 48) ++ [hec8 s.cfg (headerWord img)] ++
              img.drop (img.length - 48)) ∧
          (hecOn s = true → s.regs[62].getLsbD 8 = false →
            ∃ x, o = img.take (img.length - 48) ++ [hec8 s.cfg (headerWord img), x] ++
              img.drop (img.length - 48)) ∧
          t = { s with sent := { phy := entryPhy c.entry, octets := o } :: s.sent,
                       txfull := s.txfull - 1,
                       txIdx := if entryI c.entry = true ∧ s.cfg.txInsertAdvancesHolder = false
                         then s.txIdx else (s.txIdx + 1) % txSizeOf s.regs[62],
                       txCell := none, draws := t.draws })

/-- Receive header reduction: CLP in bit 0, the low bits of VCI above it and of VPI above them, as the
reduction mask says; a mask that is no run of one to four ones stops the machine, the spec's decision D29
(50 R428; 10 R68; the header layout is PRESUMED, log 11). -/
def Obligations.HeaderReduction : Prop :=
  ∀ img : List Byte,
    (∃ v, reduce 0 img = .ok v ∧ v.extractLsb' 0 1 = (headerByte img 3).extractLsb' 0 1 ∧
      v.extractLsb' 1 15 = (headerVci img).extractLsb' 0 15) ∧
      (∀ n p : Nat, 1 ≤ n → n ≤ 4 → n + p ≤ 7 →
        ∃ v, reduce (BitVec.ofNat 7 ((2 ^ n - 1) * 2 ^ p)) img = .ok v ∧
          v.extractLsb' 0 1 = (headerByte img 3).extractLsb' 0 1 ∧
          (∀ k, k < 8 + p → v.getLsbD (1 + k) = (headerVci img).getLsbD k) ∧
          (∀ k, k < n → v.getLsbD (9 + p + k) = (headerVpi img).getLsbD k) ∧
          ∀ k, 9 + p + n ≤ k → v.getLsbD k = false) ∧
      ∀ m : BitVec 7, m ≠ 0 → (∀ n p : Nat, n ≤ 4 → m.toNat ≠ (2 ^ n - 1) * 2 ^ p) →
        reduce m img = .error (.fault .reservedReductionMask)

/-! ### The timers, the mailbox and the event register -/

/-- A clock event of an enabled interval timer: the count goes down by one and is loaded again from its
initialization value, the event bit of R57 is set at the time-out, and nothing else changes; with an
initialization value of 0 it stops; a timer clocked by an ICSI pin needs a rising edge of the pin that no
tick has used, and uses one; the period is the spec's decision D34 (60 R530, R531; 10 R81; log 30). -/
def Obligations.TimerCountdown : Prop :=
  ∀ (s : State) (k : Fin 2), pitEnabled s k = true →
    (pitPin s k ≠ none → pitEdges s k = 0 → perform s (.pit k) = .error .stall) ∧
    ((pitPin s k ≠ none → pitEdges s k ≠ 0) →
    let c := pitCount s k
    let r : Reg := if k = 0 then 54 else 55
    let timeout := if s.cfg.pitReloadAtZero then c.toNat ≤ 1 else c = 1
    (pitInit s k = 0 → perform s (.pit k) = .error (.fault .pitZeroPeriod)) ∧
      (pitInit s k ≠ 0 →
        ∃ t, perform s (.pit k) = .ok t ∧
          t.regs[r] = (if c = 0 ∨ (s.cfg.pitReloadAtZero = true ∧ c = 1) then pitInit s k
            else c - 1) ∧
          (∀ i, i < 16 → (t.regs[57].getLsbD i = true ↔
            s.regs[57].getLsbD i = true ∨ (i = 4 + k.val ∧ timeout))) ∧
          (∀ q : Reg, q ≠ r → q ≠ 57 → t.regs[q] = s.regs[q]) ∧
          (∀ j : Fin 2, pitEdges t j =
            if j = k ∧ pitPin s k ≠ none then pitEdges s j - 1 else pitEdges s j) ∧
          t = { s with regs := t.regs, pitEdges0 := t.pitEdges0, pitEdges1 := t.pitEdges1,
                       draws := t.draws }))

/-- The mailbox: a host write fills R40 and R41 and sets CIN_BUSY, a host read clears COUT_RDY, a write
of R40 by the SWAN sets COUT_RDY and one of R41 sets nothing, and a read of R40 clears CIN_BUSY (52 R490
to R493; 10 R39). -/
def Obligations.MailboxFlags : Prop :=
  ∀ (s : State) (rsa rd : Reg),
    (∀ v : BitVec 32, ∃ t, perform s (.comminWrite v) = .ok t ∧ comm t = v ∧ t.cinBusy = true ∧
      (∀ r : Reg, r ≠ 40 → r ≠ 41 → t.regs[r] = s.regs[r]) ∧
      t = { s with regs := t.regs, cinBusy := t.cinBusy, draws := t.draws }) ∧
      (∃ t, perform s .commoutRead = .ok t ∧ comm t = comm s ∧ t.coutRdy = false ∧
        t = { s with coutRdy := t.coutRdy, draws := t.draws }) ∧
      (PendingForm s →
        let v := readVal .alu s rsa
        (AluReady s [rsa] 40 false v none →
          ∃ t, exec (.mv 40 rsa) s = .next t ∧ t.regs[40] = v ∧ t.coutRdy = true ∧
            (rsa ≠ 40 → t.cinBusy = s.cinBusy)) ∧
        (AluReady s [rsa] 41 false v none →
          ∃ t, exec (.mv 41 rsa) s = .next t ∧ t.regs[41] = v ∧ t.coutRdy = s.coutRdy ∧
            (rsa ≠ 40 → t.cinBusy = s.cinBusy)) ∧
        (PlainDest rd → AluReady s [40] rd false s.regs[40] none →
          ∃ t, exec (.mv rd 40) s = .next t ∧ t.regs[rd] = storedAs s rd s.regs[40] ∧
            t.cinBusy = false ∧ t.coutRdy = s.coutRdy))

/-- The ICS latch sets the event bit of each enabled pin that was high at two successive samples, and
keeps every other bit of R57 and every other register; when the pins change, each rise of ICSI_D or
ICSI_C is one edge for PIT0 or PIT1, and no register changes (52 R498; 60 R531; 10 R61; log 30). -/
def Obligations.InterchipLatch : Prop :=
  (∀ (s : State) (pins : BitVec 4), ∃ t, perform s (.icsi pins) = .ok t ∧ t.icsi = pins ∧
    (∀ k : Fin 2, pitEdges t k = pitEdges s k +
      if s.icsi.getLsbD (3 - k.val) = false ∧ pins.getLsbD (3 - k.val) = true then 1 else 0) ∧
    t = { s with icsi := pins, pitEdges0 := t.pitEdges0, pitEdges1 := t.pitEdges1,
                 draws := t.draws }) ∧
  ∀ s : State, ∃ t, perform s .icsLatch = .ok t ∧ t.icsiPrev = s.icsi ∧
    (∀ i, i < 16 → (t.regs[57].getLsbD i = true ↔ s.regs[57].getLsbD i = true ∨
      (i < 4 ∧ s.icsi.getLsbD i = true ∧ s.icsiPrev.getLsbD i = true ∧
        s.regs[63].getLsbD (8 + i) = true))) ∧
    (∀ r : Reg, r ≠ 57 → t.regs[r] = s.regs[r]) ∧
    t = { s with regs := t.regs, icsiPrev := t.icsiPrev, draws := t.draws }

/-- A control byte written to R42 changes one mode bit, and one written to R57 changes one event bit:
its bits [3:0] name the bit and its bit 7 is the new value; R57[9:6] cannot be written, and a latched
pin that is still high stays set, which is the model's reading of R61 and of 52 R498 (DEDUCED, log 34)
(10 R42, R60, R61). -/
def Obligations.ControlBytes : Prop :=
  ∀ (s : State) (b : Fin 16) (on : Bool), PendingForm s →
    let v : Half := BitVec.ofNat 16 (b.val + if on then 128 else 0)
    let held := b.val < 4 ∧ s.icsi.getLsbD b.val = true ∧ s.icsiPrev.getLsbD b.val = true ∧
      s.regs[63].getLsbD (8 + b.val) = true
    (AluReady s [] 42 false v none →
      ∃ t, exec (.limd 42 false v) s = .next t ∧
        (∀ i, i < 16 → t.mode.getLsbD i = if i = b.val then on else s.mode.getLsbD i) ∧
        RegsFrame s t [42]) ∧
      (AluReady s [] 57 false v none →
        ∃ t, exec (.limd 57 false v) s = .next t ∧ t.mode = s.mode ∧ RegsFrame s t [57] ∧
          ∀ i, i < 16 → (t.regs[57].getLsbD i = true ↔
            if i = b.val ∧ ¬ (6 ≤ i ∧ i ≤ 9) then on = true ∨ held
            else s.regs[57].getLsbD i = true))

/-- What a write to a register with a circuit behind it does beside changing the register: R32 and R33 give
the HEC8 circuit its two inputs in HEC mode (R33 with no R32 before it leaves the result open, log 42;
that the halfword stays in the cell of R33 too is the model's choice, log 53); every write of R43
appends a control entry, the spec's decision D31, and its high byte is the options under mode bit 8; R54
and R55 are the timers' initialization values; R60 with CR set resets the Cell Scheduling System, every
Scoreboard bit unwritten and ACF and R61 open, which is its decision D46 (log 15); R62 starts a side
that leaves reset mode at its first holder with empty counters, which is its decision D62, and no other
side; nothing else changes (10 R31, R32, R46, R57, R58, R64, R81, R82; 43 R299; 50 R423). -/
def Obligations.SpecialWrites : Prop :=
  ∀ (s : State) (v : Half), PendingForm s →
    (AluReady s [] 32 false v none →
      ∃ t, exec (.limd 32 false v) s = .next t ∧ t.regs[32] = v ∧ RegsFrame s t [32] ∧
        (modeVal s 9 = true → t.hecA = v ∧ t.hecPhase = .seeded) ∧
        (modeVal s 9 = false → t.hecA = s.hecA ∧ t.hecPhase = s.hecPhase) ∧
        t = { passing s t with hecA := t.hecA, hecPhase := t.hecPhase }) ∧
      (AluReady s [] 33 false v none →
        ∃ t, exec (.limd 33 false v) s = .next t ∧ t.regs[33] = v ∧ RegsFrame s t [33] ∧
          (modeVal s 9 = true → t.hecB = v ∧
            t.hecPhase = if s.hecPhase = .seeded then .ready else s.hecPhase) ∧
          (modeVal s 9 = false → t.hecB = s.hecB ∧ t.hecPhase = s.hecPhase) ∧
          t = { passing s t with hecB := t.hecB, hecPhase := t.hecPhase }) ∧
      (AluReady s [] 43 false v none →
        ∃ t, exec (.limd 43 false v) s = .next t ∧ RegsFrame s t [] ∧
          t.fifo[s.fifoWr] = v.extractLsb' 0 7 ∧
          (∀ k : Fin 8, k ≠ s.fifoWr → t.fifo[k] = s.fifo[k]) ∧
          t = { passing s t with
            fifo := t.fifo, fifoWr := s.fifoWr + 1,
            opts := if modeVal s 8 then v.extractLsb' 8 6 else s.opts }) ∧
      (AluReady s [] 54 false v none →
        ∃ t, exec (.limd 54 false v) s = .next t ∧ t.regs[54] = v ∧ RegsFrame s t [54] ∧
          t = { passing s t with pitInit0 := v }) ∧
      (AluReady s [] 55 false v none →
        ∃ t, exec (.limd 55 false v) s = .next t ∧ t.regs[55] = v ∧ RegsFrame s t [55] ∧
          t = { passing s t with pitInit1 := v }) ∧
      (AluReady s [] 60 false v none →
        ∃ t, exec (.limd 60 false v) s = .next t ∧ t.regs[60] = v &&& 0xFF00 ∧
          (v.getLsbD 14 = true → RegsFrame s t [60, 61] ∧ (∀ a, Memory.read t.sb a = none) ∧
            t = { passing s t with acf := t.acf, sb := t.sb }) ∧
          (v.getLsbD 14 = false → RegsFrame s t [60] ∧ t = passing s t)) ∧
      (AluReady s [] 62 false v none →
        ∃ t, exec (.limd 62 false v) s = .next t ∧ t.regs[62] = v ∧ RegsFrame s t [62] ∧
          (if rxSizeOf s.regs[62] = 0 ∧ rxSizeOf v ≠ 0 then
            t.rxIdx = 0 ∧ t.rxbusy = 0 ∧ t.rxfull = 0
           else t.rxIdx = s.rxIdx ∧ t.rxbusy = s.rxbusy ∧ t.rxfull = s.rxfull) ∧
          (if txSizeOf s.regs[62] = 0 ∧ txSizeOf v ≠ 0 then
            t.txIdx = 0 ∧ t.txbusy = 0 ∧ t.txfull = 0
           else t.txIdx = s.txIdx ∧ t.txbusy = s.txbusy ∧ t.txfull = s.txfull) ∧
          t = { passing s t with rxIdx := t.rxIdx, rxbusy := t.rxbusy, rxfull := t.rxfull,
                                 txIdx := t.txIdx, txbusy := t.txbusy, txfull := t.txfull })

/-! ### Reading registers, windows, and the Bit Bucket -/

/-- With nothing outstanding and no window open, every register but R36 can be read by every instruction,
R33 in HEC mode only with both halfwords of its input written since the last first one, and a read gives:
the register for most; for R33 in HEC mode the HEC8 of the two halfwords; for R43 R56 with its bits
reversed, or in special-features mode the counters; for R52 the revision above the count; for R57 its live
bits, bit 8 being 0 in reset mode, which is the model's reading (log 51), since 70 R551 says it of the
first user instruction only; for R60 and R61 the bits they have (10 R28 to R67, R82; 70 R551, R566;
decision D32 for R57[9:8]; log 6 for R33 with no input; HEC8 and CRC-32 are PRESUMED, log 11). -/
def Obligations.RegisterReads : Prop :=
  ∀ (s : State) (u : Use) (r : Reg), Quiet s → r ≠ 36 →
    let v := readVal u s r
    let incomplete := r = 33 ∧ modeBit s 9 = true ∧ s.hecPhase = .seeded
    (¬ incomplete → Readable u s r) ∧
      (incomplete → readCheck u s r = .error (.fault .unwrittenRead)) ∧
      (r.val ∉ [33, 42, 43, 52, 57, 60, 61] → v = s.regs[r]) ∧
      (r = 33 → modeBit s 9 = false → v = s.regs[33]) ∧
      (r = 33 → modeBit s 9 = true → s.hecPhase = .ready →
        v.extractLsb' 0 8 = hec8 s.cfg (s.hecA ++ s.hecB)) ∧
      (r = 43 → modeBit s 8 = false → ∀ i, i < 16 → v.getLsbD i = s.regs[56].getLsbD (15 - i)) ∧
      (r = 43 → modeBit s 8 = true → v.extractLsb' 11 3 = s.dma2Count ∧
        v.extractLsb' 4 4 = BitVec.ofNat 4 (if s.opts.getLsbD 1 then s.rxfull else s.rxbusy) ∧
        v.extractLsb' 0 4 = BitVec.ofNat 4 (if s.opts.getLsbD 0 then s.txfull else s.txbusy)) ∧
      (r = 52 → v.extractLsb' 13 3 = s.cfg.rev ∧
        v.extractLsb' 0 10 = s.regs[52].extractLsb' 0 10) ∧
      (r = 57 → v.extractLsb' 0 6 = s.regs[57].extractLsb' 0 6 ∧
        v.extractLsb' 10 6 = s.regs[57].extractLsb' 10 6 ∧
        (v.getLsbD 6 = true ↔ crc32Ok s.cfg (crcY s) = false) ∧
        (v.getLsbD 7 = true ↔ crc32Ok s.cfg (crcX s) = false) ∧
        (v.getLsbD 8 = true ↔ rxSizeOf s.regs[62] ≠ 0 ∧ s.rxfull = rxSizeOf s.regs[62]) ∧
        (v.getLsbD 9 = true ↔ s.txbusy ≠ 0)) ∧
      (r = 60 → v.extractLsb' 8 8 = s.regs[60].extractLsb' 8 8) ∧
      (r = 61 → v.extractLsb' 0 14 = s.regs[61].extractLsb' 0 14)

/-- The write-delay windows under `hazard_mode = fault`: after an ALU instruction writes R58 or R59 an
instruction that is no ALU or DMA instruction must wait for one other, and after a write of R60, R62 or
R63 every one must wait for two, whatever these instructions are as long as they do not write the register
again; once the window is past the new value is read. A load of a hardware register is not counted among
them. The fault is the spec's decision D11 (70 R560 to R563, R565). -/
def Obligations.WriteDelays : Prop :=
  ∀ (i : Instr) (s t : State) (r : Reg), PendingForm s → s.cfg.hazardMode = .fault →
    (encode i).getLsbD 31 = true → r ∈ dests i → Completes i s t →
    (∀ um v, i = .limd r um v → t.regs[r] = storedAs s r v) ∧
      ((r = 58 ∨ r = 59) → Readable .alu t r ∧ readVal .alu t r = t.regs[r] ∧
        ∀ u : Use, u = .other ∨ u = .branch →
          readCheck u t r = .error (.fault (.writeDelayHazard r.val 0)) ∧
          ∀ (j : Instr) (t1 : State), Completes j t t1 → r ∉ dests j →
            (¬ HardwareLoad j → Readable u t1 r ∧ readVal u t1 r = t.regs[r]) ∧
            (HardwareLoad j →
              readCheck u t1 r = .error (.fault .loadHardwareRegisterHazard))) ∧
      ((r = 60 ∨ r = 62 ∨ r = 63) → ∀ u : Use,
        readCheck u t r = .error (.fault (.writeDelayHazard r.val 0)) ∧
        ∀ (j : Instr) (t1 : State), Completes j t t1 → r ∉ dests j → ¬ HardwareLoad j →
          readCheck u t1 r = .error (.fault (.writeDelayHazard r.val 1)) ∧
          ∀ (k : Instr) (t2 : State), Completes k t1 t2 → r ∉ dests k → ¬ HardwareLoad k →
            Readable u t2 r ∧ (r ≠ 60 → readVal u t2 r = t.regs[r]))

/-- R36: what is written to it is discarded, and an instruction that names it as a source leaves the
SWAN stuck, whatever the instruction is (decision D23, log 16); a stuck SWAN issues nothing and the turn
goes to the other agents (10 R35). -/
def Obligations.BitBucket : Prop :=
  (∀ (s : State) (v : Half), PendingForm s → AluReady s [] 36 false v none →
    ∃ t, exec (.limd 36 false v) s = .next t ∧ RegsFrame s t [] ∧ SameMemory s t ∧
      t = passing s t) ∧
  (∀ s : State, s.stuck = true → s.agenda = [] → s.turn = .swan →
    step s = .next { s with turn := .helpers }) ∧
  (∀ (s : State) (rd : Reg) (um ae : Bool) (abc : Abc) (cc : BitVec 3) (modx : BitVec 4)
    (rsb : SReg) (usi : BitVec 6) (si : BitVec 10) (amt : BitVec 4),
    let stuck (i : Instr) : Prop := Sticks i s
    let k := modWidth modx
    (rd ≠ 61 → SignTest abc k →
      stuck (.add rd um abc 36 modx ae rsb) ∧ stuck (.sub rd um abc 36 modx ae rsb) ∧
      stuck (.and rd um abc 36 modx ae rsb) ∧ stuck (.or rd um abc 36 modx ae rsb) ∧
      stuck (.xor rd um abc 36 modx ae rsb) ∧ stuck (.addi rd um abc 36 modx usi) ∧
      stuck (.subi rd um abc 36 modx usi) ∧ stuck (.sft rd um abc 36 modx rsb) ∧
      stuck (.sfta rd um abc 36 modx rsb) ∧ stuck (.sftc rd um abc 36 modx ae rsb) ∧
      stuck (.sftai rd um abc 36 modx amt) ∧ stuck (.sftci rd um abc 36 modx ae amt) ∧
      stuck (.sftli rd um abc 36 modx ae amt) ∧ stuck (.sftri rd um abc 36 modx ae amt)) ∧
    (rd ≠ 61 →
      stuck (.andi rd um abc 36 si) ∧ stuck (.ori rd um abc 36 si) ∧
      stuck (.xori rd um abc 36 si) ∧ stuck (.fls rd um abc 36 ae) ∧ stuck (.mv rd 36)) ∧
    (rd ≠ 61 → CompareTest s cc k →
      stuck (.max rd um cc 36 modx ae rsb) ∧ stuck (.min rd um cc 36 modx ae rsb)) ∧
    (CompareTest s cc 16 →
      (rd ≠ 61 → stuck (.maxi rd um cc 36 si) ∧ stuck (.mini rd um cc 36 si)) ∧
      stuck (.cmp cc 36 ae rsb) ∧ stuck (.cmpp cc 36 ae rsb) ∧ stuck (.cmpi cc 36 si) ∧
      stuck (.cmppi cc 36 si)) ∧
    stuck (.tset 36 si) ∧ stuck (.tclr 36 si)) ∧
  (∀ (s : State) (rd : Reg) (lnk z : Bool) (hw idx lsbs : BitVec 5) (adr swap : BitVec 2)
    (reg : BitVec 3) (rla : Rla) (rsb : SReg),
    Sticks (.pushc 36 rsb) s ∧ Sticks (.shfm 36 rsb) s ∧ Sticks (.std swap rla 36 idx rsb) s ∧
    (swap.getLsbD 1 = false → Sticks (.st swap rla 36 idx) s) ∧
    (adr.getLsbD 1 = false → Sticks (.srh adr reg 36 lsbs rsb) s) ∧
    (hw.toNat ≤ 16 → rd.val + hw.toNat ≤ 64 → (z = true → (zMask rd).isSome = true) →
      Sticks (.lmfm rd lnk z 36 hw rsb) s)) ∧
  ∀ (s : State) (bc : BitVec 8) (bc7 : BitVec 7) (rla : Rla) (ibi crcx crcy pod st : Bool)
    (rsb : SReg), ¬ (ibi = true ∧ crcx = true ∧ crcy = true) →
    (s.cfg.strictReserved = true → ibi = false →
      bc = 0 ∧ bc7 = 0 ∧ crcx = false ∧ crcy = false) →
    Sticks (.dma1r bc rla 36 ibi crcx crcy pod st rsb) s ∧
    Sticks (.dma1w bc rla 36 ibi crcx crcy pod st rsb) s ∧
    Sticks (.dma2r bc rla 36 ibi pod rsb) s ∧ Sticks (.dma2w bc rla 36 ibi pod rsb) s ∧
    ((rlaReg rla).isSome = true →
      Sticks (.dma1rPlus bc7 rla 36 ibi crcx crcy pod st rsb) s ∧
      Sticks (.dma1wPlus bc7 rla 36 ibi crcx crcy pod st rsb) s ∧
      Sticks (.dma2rPlus bc7 rla 36 ibi pod rsb) s ∧ Sticks (.dma2wPlus bc7 rla 36 ibi pod rsb) s)

/-! ### Reset and boot -/

/-- The values that the sources give the registers for reset, the mode bits all 0, and every buffer and
counter empty; that the counters and buffers are empty rests on log 9 and on the spec's decision D22 (10
R31 to R34, R47, R57, R64, R66, R86). -/
def Obligations.ResetValues : Prop :=
  let r := State.reset.regs
  r[32] = 0 ∧ r[33] = 0xFFFF ∧ r[34] = 0xFF00 ∧ r[35] = 0x0040 ∧ r[44] = 0 ∧ r[45] = 0 ∧
    r[46] = 0 ∧ r[47] = 0 ∧ r[52] = 0 ∧ r[54] = 0 ∧ r[55] = 0 ∧ r[60] = 0x00FF ∧ r[62] = 0 ∧
    State.reset.mode = 0 ∧ State.reset.pitInit0 = 0 ∧ State.reset.pitInit1 = 0 ∧
    quiescent State.reset = true ∧ State.reset.rxbusy = 0 ∧ State.reset.rxfull = 0 ∧
    State.reset.txbusy = 0 ∧ State.reset.txfull = 0

/-- R34 and R35 are plain 16-bit registers: at reset they hold 0xFF00 and 0x0040, a write of any value
changes the register and nothing else, and a read gives what was written (10 R33, R34). -/
def Obligations.PlainRegisters : Prop :=
  State.reset.regs[34] = 0xFF00 ∧ State.reset.regs[35] = 0x0040 ∧
    ∀ (u : Use) (w s : State) (r : Reg) (v : Half), r = 34 ∨ r = 35 →
      writeCheck w r v = .ok () ∧ writeReg w s r v = { s with regs := s.regs.set r v } ∧
        readVal u (writeReg w s r v) r = v ∧ (accessCheck s r = .ok () → Readable u s r)

/-- The machine reaches the first instruction of an image with the pc and R53 at its start address, the boot
value as mode bits, the image at 4A in Fast Memory and its checksum in R40, or stops when the image
breaks a limit of R558 or its count of halfwords does not fit its two bytes, a check that R558 does not
list and that is the model's choice (log 32); the state it gives satisfies the invariants; the fields
and the checksum, a parameter with the sum as its default, are the spec's decision D9 (70 R553, R554,
R558). -/
def Obligations.BootState : Prop :=
  ∀ (c : Config) (a : BitVec 16) (code : List Half),
    let bv : Half := code.getD 1 0
    ((c.bootSource = 0 ∨ code.length % 2 = 1 ∨ code = [] ∨ 65536 ≤ code.length ∨
        (c.bootSource = 1 ∧ 4096 < code.length / 2) ∨ (c.bootSource = 2 ∧ 512 < code.length / 2) ∨
        code.getD 0 0 ≠ 0xFE40 ∨ bv &&& 0xFF00 ≠ 0 ∨ bv &&& 0x000C ≠ 0 ∨
        a.extractLsb' 11 4 = 0xF ∨ (bv.getLsbD 4 = true ∧ a.toNat % 0x8000 ≠ 0) ∨
        Nat.min (fmBytes c.fmSize) 0x80000 < 4 * a.toNat + 2 * code.length) ↔
        boot c a code = .fault .bootImage) ∧
      ∀ t, boot c a code = .next t →
        t.pc.toNat = a.toNat ∧ t.regs[53].toNat = a.toNat / 4096 ∧ t.mode = bv ∧
        (∀ k, k < code.length → readHalf t.fm (4 * a.toNat + 2 * k) = code[k]?) ∧
        (∀ b, (b < 4 * a.toNat ∨ 4 * a.toNat + 2 * code.length ≤ b) → Memory.read t.fm b = none) ∧
        (c.bootChecksum = none → t.regs[40].toNat =
          (a.toNat + code.length + (code.map BitVec.toNat).sum) % 65536) ∧
        (∀ x, c.bootChecksum = some x → t.regs[40] = x) ∧
        t.coutRdy = true ∧ t.cinBusy = false ∧
        MemoryForm t ∧ QueueBounds t ∧ PendingForm t ∧ ReservedZero t ∧ CountersInRange t

/-- The state after reset satisfies the invariants. -/
def Obligations.ResetForm : Prop :=
  MemoryForm State.reset ∧ QueueBounds State.reset ∧ PendingForm State.reset ∧
    ReservedZero State.reset ∧ CountersInRange State.reset

/-! ### What every step keeps -/

/-- Every step keeps every sparse memory in its canonical form. -/
def Obligations.StepKeepsMemoryForm : Prop :=
  ∀ s t : State, MemoryForm s → step s = .next t → MemoryForm t

/-- Every step keeps the hardware's buffers within their sizes: four posted writes, two Cell Scheduling
operations, three commands a port and one outstanding store (10 R73 to R76; 46 R390). -/
def Obligations.StepKeepsQueueBounds : Prop :=
  ∀ s t : State, QueueBounds s → step s = .next t → QueueBounds t

/-- Every step keeps the bits that read as zeroes at zero, the reserved mode bits clear, and the UTOPIA
counters in their range (10 R29, R43, R48, R55, R56, R62, R63, R78). -/
def Obligations.StepKeepsReserved : Prop :=
  ∀ s t : State, PendingForm s → ReservedZero s → CountersInRange s → step s = .next t →
    PendingForm t ∧ ReservedZero t ∧ CountersInRange t

/-- No instruction changes a byte of memory: stores are posted, and the agents perform them later; and
no instruction but a write that resets the Cell Scheduling System changes a Scoreboard bit; that such a
write leaves every bit unwritten is the spec's decision D46 (45 R360; 46 R390; 43 R294, R299). -/
def Obligations.InstructionsPost : Prop :=
  ∀ (i : Instr) (s t : State), PendingForm s → exec i s = .next t →
    SameBytes s t ∧ (t.sb ≠ s.sb → t.sb = [] ∧ t.regs[60].getLsbD 14 = true)

end
end

