-- ==== Sys2Proof/Laws/Memory.lean ====
section
/-!
SUPPORT. The laws of the sparse memories: reading after writing, and the canonical form.
-/
namespace Sys2Proof.Machine

variable {α : Type}

theorem Memory.read_write_same (m : Sparse α) (a : Nat) (v : α) :
    Memory.read (Memory.write m a v) a = some v := by
  induction m with
  | nil => simp [Memory.write, Memory.read]
  | cons c m ih =>
    obtain ⟨k, w⟩ := c
    simp only [Memory.write]
    split
    · simp [Memory.read]
    · split
      · simp [Memory.read]
      · rename_i h1 h2
        simp [Memory.read, ih, Ne.symm h2]

theorem Memory.read_write_other (m : Sparse α) {a b : Nat} (v : α) (h : a ≠ b) :
    Memory.read (Memory.write m a v) b = Memory.read m b := by
  induction m with
  | nil => simp [Memory.write, Memory.read, h]
  | cons c m ih =>
    obtain ⟨k, w⟩ := c
    simp only [Memory.write]
    split
    · simp [Memory.read, h]
    · split
      · rename_i h1 h2
        simp [Memory.read, h, ← h2]
      · simp [Memory.read, ih]

/-- What a memory reads as after one write. -/
theorem Memory.read_write (m : Sparse α) (a b : Nat) (v : α) :
    Memory.read (Memory.write m a v) b = if b = a then some v else Memory.read m b := by
  split
  · subst_vars; exact Memory.read_write_same m _ v
  · exact Memory.read_write_other m v (Ne.symm ‹_›)

/-- The addresses of a memory after a write. -/
theorem Memory.mem_write {m : Sparse α} {a : Nat} {v : α} {c : Nat × α}
    (h : c ∈ Memory.write m a v) : c = (a, v) ∨ c ∈ m := by
  induction m with
  | nil => simpa [Memory.write] using h
  | cons d m ih =>
    obtain ⟨k, w⟩ := d
    simp only [Memory.write] at h
    split at h
    · rcases List.mem_cons.1 h with h | h
      · exact .inl h
      · exact .inr h
    · split at h
      · rcases List.mem_cons.1 h with h | h
        · exact .inl h
        · exact .inr (List.mem_cons_of_mem _ h)
      · rcases List.mem_cons.1 h with h | h
        · exact .inr (by simp [h])
        · rcases ih h with h | h
          · exact .inl h
          · exact .inr (List.mem_cons_of_mem _ h)

/-- A write keeps the canonical form. -/
theorem Memory.write_wf {m : Sparse α} (a : Nat) (v : α) (h : Memory.wf m) :
    Memory.wf (Memory.write m a v) := by
  induction m with
  | nil => simp [Memory.write, Memory.wf]
  | cons d m ih =>
    obtain ⟨k, w⟩ := d
    obtain ⟨h1, h2⟩ := List.pairwise_cons.1 h
    simp only [Memory.write]
    split
    · refine List.pairwise_cons.2 ⟨?_, h⟩
      intro c hc
      rcases List.mem_cons.1 hc with hc | hc
      · simpa [hc] using ‹_›
      · have := h1 c hc; simp only at this ⊢; omega
    · split
      · subst_vars
        exact List.pairwise_cons.2 ⟨h1, h2⟩
      · refine List.pairwise_cons.2 ⟨?_, ih h2⟩
        intro c hc
        rcases Memory.mem_write hc with hc | hc
        · subst hc; simp only; omega
        · exact h1 c hc

/-- Erasing keeps the canonical form. -/
theorem Memory.erase_wf {m : Sparse α} (a : Nat) (h : Memory.wf m) :
    Memory.wf (Memory.erase m a) := List.Pairwise.filter _ h

theorem Memory.read_erase (m : Sparse α) (a b : Nat) :
    Memory.read (Memory.erase m a) b = if b = a then none else Memory.read m b := by
  induction m with
  | nil => simp [Memory.erase, Memory.read]
  | cons d m ih =>
    obtain ⟨k, w⟩ := d
    simp only [Memory.erase, List.filter_cons] at ih ⊢
    by_cases hk : k = a
    · subst hk
      simp only [bne_self_eq_false, Bool.false_eq_true, if_false, ih, Memory.read]
      by_cases hb : b = k
      · simp [hb]
      · simp [hb, Ne.symm hb]
    · simp only [bne_iff_ne, ne_eq, hk, not_false_eq_true, if_true, Memory.read, ih]
      by_cases hb : k = b
      · subst hb; simp [hk]
      · simp [hb]

/-- A halfword write keeps the canonical form. -/
theorem writeHalf_wf {m : Sparse Byte} (a : Nat) (v : Half) (h : Memory.wf m) :
    Memory.wf (writeHalf m a v) := Memory.write_wf _ _ (Memory.write_wf _ _ h)

/-- A halfword write changes its two bytes only. -/
theorem read_writeHalf_other (m : Sparse Byte) (a b : Nat) (v : Half) (h0 : b ≠ a)
    (h1 : b ≠ a + 1) : Memory.read (writeHalf m a v) b = Memory.read m b := by
  simp [writeHalf, Memory.read_write, h0, h1]

/-- A halfword is its two bytes. -/
theorem halfOf_split (v : Half) : halfOf (v.extractLsb' 8 8) (v.extractLsb' 0 8) = v := by
  apply BitVec.eq_of_getLsbD_eq
  intro i hi
  simp only [halfOf, BitVec.getLsbD_append, BitVec.getLsbD_extractLsb']
  by_cases h : i < 8
  · simp [h]
  · have : i - 8 < 8 := by omega
    have : 8 + (i - 8) = i := by omega
    simp [*]

/-- A halfword reads back as it was written. -/
theorem readHalf_writeHalf (m : Sparse Byte) (a : Nat) (v : Half) :
    readHalf (writeHalf m a v) a = some v := by
  simp [readHalf, writeHalf, Memory.read_write, halfOf_split]

/-- A word write keeps the canonical form. -/
theorem writeWord_wf {m : Sparse Byte} (a : Nat) (w : Word) (h : Memory.wf m) :
    Memory.wf (writeWord m a w) := writeHalf_wf _ _ (writeHalf_wf _ _ h)

/-- A Scoreboard entry write keeps the canonical form. -/
theorem sbWrite_wf {m : Sparse Bool} (msb : Bool) (e : Nat) (v : Half) (h : Memory.wf m) :
    Memory.wf (sbWrite m msb e v) := by
  unfold sbWrite
  generalize List.range 16 = l
  induction l generalizing m with
  | nil => exact h
  | cons k l ih => exact ih (Memory.write_wf _ _ h)

end Sys2Proof.Machine
end

