-- ==== Sys2Proof/Laws/State.lean ====
section
/-!
SUPPORT. One lemma per field per update of the state: what the shared updates leave alone and what
they set.
-/
namespace Sys2Proof.Machine

/-! ### `setReg`: a register cell -/

section
variable (s : State) (r : Reg) (v : Half)
@[simp] theorem setReg_cfg : (setReg s r v).cfg = s.cfg := rfl
@[simp] theorem setReg_mode : (setReg s r v).mode = s.mode := rfl
@[simp] theorem setReg_fifo : (setReg s r v).fifo = s.fifo := rfl
@[simp] theorem setReg_fifoWr : (setReg s r v).fifoWr = s.fifoWr := rfl
@[simp] theorem setReg_fifoRd : (setReg s r v).fifoRd = s.fifoRd := rfl
@[simp] theorem setReg_opts : (setReg s r v).opts = s.opts := rfl
@[simp] theorem setReg_cinBusy : (setReg s r v).cinBusy = s.cinBusy := rfl
@[simp] theorem setReg_coutRdy : (setReg s r v).coutRdy = s.coutRdy := rfl
@[simp] theorem setReg_cinLag : (setReg s r v).cinLag = s.cinLag := rfl
@[simp] theorem setReg_coutLag : (setReg s r v).coutLag = s.coutLag := rfl
@[simp] theorem setReg_pitInit0 : (setReg s r v).pitInit0 = s.pitInit0 := rfl
@[simp] theorem setReg_pitInit1 : (setReg s r v).pitInit1 = s.pitInit1 := rfl
@[simp] theorem setReg_ovf : (setReg s r v).ovf = s.ovf := rfl
@[simp] theorem setReg_acf : (setReg s r v).acf = s.acf := rfl
@[simp] theorem setReg_cmpState : (setReg s r v).cmpState = s.cmpState := rfl
@[simp] theorem setReg_pc : (setReg s r v).pc = s.pc := rfl
@[simp] theorem setReg_fq : (setReg s r v).fq = s.fq := rfl
@[simp] theorem setReg_ctag : (setReg s r v).ctag = s.ctag := rfl
@[simp] theorem setReg_icPages : (setReg s r v).icPages = s.icPages := rfl
@[simp] theorem setReg_icWords : (setReg s r v).icWords = s.icWords := rfl
@[simp] theorem setReg_linkAdrs : (setReg s r v).linkAdrs = s.linkAdrs := rfl
@[simp] theorem setReg_linkMask : (setReg s r v).linkMask = s.linkMask := rfl
@[simp] theorem setReg_holdX : (setReg s r v).holdX = s.holdX := rfl
@[simp] theorem setReg_holdY : (setReg s r v).holdY = s.holdY := rfl
@[simp] theorem setReg_wbuf : (setReg s r v).wbuf = s.wbuf := rfl
@[simp] theorem setReg_fmJobs : (setReg s r v).fmJobs = s.fmJobs := rfl
@[simp] theorem setReg_lsu : (setReg s r v).lsu = s.lsu := rfl
@[simp] theorem setReg_cssq : (setReg s r v).cssq = s.cssq := rfl
@[simp] theorem setReg_q1 : (setReg s r v).q1 = s.q1 := rfl
@[simp] theorem setReg_q2 : (setReg s r v).q2 = s.q2 := rfl
@[simp] theorem setReg_residue : (setReg s r v).residue = s.residue := rfl
@[simp] theorem setReg_rxbusy : (setReg s r v).rxbusy = s.rxbusy := rfl
@[simp] theorem setReg_rxfull : (setReg s r v).rxfull = s.rxfull := rfl
@[simp] theorem setReg_txbusy : (setReg s r v).txbusy = s.txbusy := rfl
@[simp] theorem setReg_txfull : (setReg s r v).txfull = s.txfull := rfl
@[simp] theorem setReg_rxIdx : (setReg s r v).rxIdx = s.rxIdx := rfl
@[simp] theorem setReg_txIdx : (setReg s r v).txIdx = s.txIdx := rfl
@[simp] theorem setReg_rxCell : (setReg s r v).rxCell = s.rxCell := rfl
@[simp] theorem setReg_txCell : (setReg s r v).txCell = s.txCell := rfl
@[simp] theorem setReg_dma2Count : (setReg s r v).dma2Count = s.dma2Count := rfl
@[simp] theorem setReg_hecA : (setReg s r v).hecA = s.hecA := rfl
@[simp] theorem setReg_hecB : (setReg s r v).hecB = s.hecB := rfl
@[simp] theorem setReg_hecPhase : (setReg s r v).hecPhase = s.hecPhase := rfl
@[simp] theorem setReg_recs : (setReg s r v).recs = s.recs := rfl
@[simp] theorem setReg_plus : (setReg s r v).plus = s.plus := rfl
@[simp] theorem setReg_rlaPrev : (setReg s r v).rlaPrev = s.rlaPrev := rfl
@[simp] theorem setReg_rlaTrap : (setReg s r v).rlaTrap = s.rlaTrap := rfl
@[simp] theorem setReg_popcShadow : (setReg s r v).popcShadow = s.popcShadow := rfl
@[simp] theorem setReg_segBranch : (setReg s r v).segBranch = s.segBranch := rfl
@[simp] theorem setReg_popfAge : (setReg s r v).popfAge = s.popfAge := rfl
@[simp] theorem setReg_dmaLag : (setReg s r v).dmaLag = s.dmaLag := rfl
@[simp] theorem setReg_fm : (setReg s r v).fm = s.fm := rfl
@[simp] theorem setReg_cb : (setReg s r v).cb = s.cb := rfl
@[simp] theorem setReg_sb : (setReg s r v).sb = s.sb := rfl
@[simp] theorem setReg_p1 : (setReg s r v).p1 = s.p1 := rfl
@[simp] theorem setReg_p2b : (setReg s r v).p2b = s.p2b := rfl
@[simp] theorem setReg_p2n : (setReg s r v).p2n = s.p2n := rfl
@[simp] theorem setReg_icsi : (setReg s r v).icsi = s.icsi := rfl
@[simp] theorem setReg_icsiPrev : (setReg s r v).icsiPrev = s.icsiPrev := rfl
@[simp] theorem setReg_pitEdges0 : (setReg s r v).pitEdges0 = s.pitEdges0 := rfl
@[simp] theorem setReg_pitEdges1 : (setReg s r v).pitEdges1 = s.pitEdges1 := rfl
@[simp] theorem setReg_sent : (setReg s r v).sent = s.sent := rfl
@[simp] theorem setReg_stuck : (setReg s r v).stuck = s.stuck := rfl
@[simp] theorem setReg_agenda : (setReg s r v).agenda = s.agenda := rfl
@[simp] theorem setReg_turn : (setReg s r v).turn = s.turn := rfl
@[simp] theorem setReg_draws : (setReg s r v).draws = s.draws := rfl
end

/-! ### `addRec`: a write-delay record -/

section
variable (s : State) (k : RecKey) (o : Half) (d : RecKind)
@[simp] theorem addRec_cfg : (addRec s k o d).cfg = s.cfg := rfl
@[simp] theorem addRec_regs : (addRec s k o d).regs = s.regs := rfl
@[simp] theorem addRec_mode : (addRec s k o d).mode = s.mode := rfl
@[simp] theorem addRec_fifo : (addRec s k o d).fifo = s.fifo := rfl
@[simp] theorem addRec_fifoWr : (addRec s k o d).fifoWr = s.fifoWr := rfl
@[simp] theorem addRec_fifoRd : (addRec s k o d).fifoRd = s.fifoRd := rfl
@[simp] theorem addRec_opts : (addRec s k o d).opts = s.opts := rfl
@[simp] theorem addRec_cinBusy : (addRec s k o d).cinBusy = s.cinBusy := rfl
@[simp] theorem addRec_coutRdy : (addRec s k o d).coutRdy = s.coutRdy := rfl
@[simp] theorem addRec_cinLag : (addRec s k o d).cinLag = s.cinLag := rfl
@[simp] theorem addRec_coutLag : (addRec s k o d).coutLag = s.coutLag := rfl
@[simp] theorem addRec_pitInit0 : (addRec s k o d).pitInit0 = s.pitInit0 := rfl
@[simp] theorem addRec_pitInit1 : (addRec s k o d).pitInit1 = s.pitInit1 := rfl
@[simp] theorem addRec_ovf : (addRec s k o d).ovf = s.ovf := rfl
@[simp] theorem addRec_acf : (addRec s k o d).acf = s.acf := rfl
@[simp] theorem addRec_cmpState : (addRec s k o d).cmpState = s.cmpState := rfl
@[simp] theorem addRec_pc : (addRec s k o d).pc = s.pc := rfl
@[simp] theorem addRec_fq : (addRec s k o d).fq = s.fq := rfl
@[simp] theorem addRec_ctag : (addRec s k o d).ctag = s.ctag := rfl
@[simp] theorem addRec_icPages : (addRec s k o d).icPages = s.icPages := rfl
@[simp] theorem addRec_icWords : (addRec s k o d).icWords = s.icWords := rfl
@[simp] theorem addRec_linkAdrs : (addRec s k o d).linkAdrs = s.linkAdrs := rfl
@[simp] theorem addRec_linkMask : (addRec s k o d).linkMask = s.linkMask := rfl
@[simp] theorem addRec_holdX : (addRec s k o d).holdX = s.holdX := rfl
@[simp] theorem addRec_holdY : (addRec s k o d).holdY = s.holdY := rfl
@[simp] theorem addRec_wbuf : (addRec s k o d).wbuf = s.wbuf := rfl
@[simp] theorem addRec_fmJobs : (addRec s k o d).fmJobs = s.fmJobs := rfl
@[simp] theorem addRec_lsu : (addRec s k o d).lsu = s.lsu := rfl
@[simp] theorem addRec_cssq : (addRec s k o d).cssq = s.cssq := rfl
@[simp] theorem addRec_q1 : (addRec s k o d).q1 = s.q1 := rfl
@[simp] theorem addRec_q2 : (addRec s k o d).q2 = s.q2 := rfl
@[simp] theorem addRec_residue : (addRec s k o d).residue = s.residue := rfl
@[simp] theorem addRec_rxbusy : (addRec s k o d).rxbusy = s.rxbusy := rfl
@[simp] theorem addRec_rxfull : (addRec s k o d).rxfull = s.rxfull := rfl
@[simp] theorem addRec_txbusy : (addRec s k o d).txbusy = s.txbusy := rfl
@[simp] theorem addRec_txfull : (addRec s k o d).txfull = s.txfull := rfl
@[simp] theorem addRec_rxIdx : (addRec s k o d).rxIdx = s.rxIdx := rfl
@[simp] theorem addRec_txIdx : (addRec s k o d).txIdx = s.txIdx := rfl
@[simp] theorem addRec_rxCell : (addRec s k o d).rxCell = s.rxCell := rfl
@[simp] theorem addRec_txCell : (addRec s k o d).txCell = s.txCell := rfl
@[simp] theorem addRec_dma2Count : (addRec s k o d).dma2Count = s.dma2Count := rfl
@[simp] theorem addRec_hecA : (addRec s k o d).hecA = s.hecA := rfl
@[simp] theorem addRec_hecB : (addRec s k o d).hecB = s.hecB := rfl
@[simp] theorem addRec_hecPhase : (addRec s k o d).hecPhase = s.hecPhase := rfl
@[simp] theorem addRec_plus : (addRec s k o d).plus = s.plus := rfl
@[simp] theorem addRec_rlaPrev : (addRec s k o d).rlaPrev = s.rlaPrev := rfl
@[simp] theorem addRec_rlaTrap : (addRec s k o d).rlaTrap = s.rlaTrap := rfl
@[simp] theorem addRec_popcShadow : (addRec s k o d).popcShadow = s.popcShadow := rfl
@[simp] theorem addRec_segBranch : (addRec s k o d).segBranch = s.segBranch := rfl
@[simp] theorem addRec_popfAge : (addRec s k o d).popfAge = s.popfAge := rfl
@[simp] theorem addRec_dmaLag : (addRec s k o d).dmaLag = s.dmaLag := rfl
@[simp] theorem addRec_fm : (addRec s k o d).fm = s.fm := rfl
@[simp] theorem addRec_cb : (addRec s k o d).cb = s.cb := rfl
@[simp] theorem addRec_sb : (addRec s k o d).sb = s.sb := rfl
@[simp] theorem addRec_p1 : (addRec s k o d).p1 = s.p1 := rfl
@[simp] theorem addRec_p2b : (addRec s k o d).p2b = s.p2b := rfl
@[simp] theorem addRec_p2n : (addRec s k o d).p2n = s.p2n := rfl
@[simp] theorem addRec_icsi : (addRec s k o d).icsi = s.icsi := rfl
@[simp] theorem addRec_icsiPrev : (addRec s k o d).icsiPrev = s.icsiPrev := rfl
@[simp] theorem addRec_pitEdges0 : (addRec s k o d).pitEdges0 = s.pitEdges0 := rfl
@[simp] theorem addRec_pitEdges1 : (addRec s k o d).pitEdges1 = s.pitEdges1 := rfl
@[simp] theorem addRec_sent : (addRec s k o d).sent = s.sent := rfl
@[simp] theorem addRec_stuck : (addRec s k o d).stuck = s.stuck := rfl
@[simp] theorem addRec_agenda : (addRec s k o d).agenda = s.agenda := rfl
@[simp] theorem addRec_turn : (addRec s k o d).turn = s.turn := rfl
@[simp] theorem addRec_draws : (addRec s k o d).draws = s.draws := rfl
end

/-! ### `setRec`: a cell and its record -/

section
variable (s : State) (r : Reg) (v : Half)
@[simp] theorem setRec_cfg : (setRec s r v).cfg = s.cfg := rfl
@[simp] theorem setRec_mode : (setRec s r v).mode = s.mode := rfl
@[simp] theorem setRec_fifo : (setRec s r v).fifo = s.fifo := rfl
@[simp] theorem setRec_fifoWr : (setRec s r v).fifoWr = s.fifoWr := rfl
@[simp] theorem setRec_fifoRd : (setRec s r v).fifoRd = s.fifoRd := rfl
@[simp] theorem setRec_opts : (setRec s r v).opts = s.opts := rfl
@[simp] theorem setRec_cinBusy : (setRec s r v).cinBusy = s.cinBusy := rfl
@[simp] theorem setRec_coutRdy : (setRec s r v).coutRdy = s.coutRdy := rfl
@[simp] theorem setRec_cinLag : (setRec s r v).cinLag = s.cinLag := rfl
@[simp] theorem setRec_coutLag : (setRec s r v).coutLag = s.coutLag := rfl
@[simp] theorem setRec_pitInit0 : (setRec s r v).pitInit0 = s.pitInit0 := rfl
@[simp] theorem setRec_pitInit1 : (setRec s r v).pitInit1 = s.pitInit1 := rfl
@[simp] theorem setRec_ovf : (setRec s r v).ovf = s.ovf := rfl
@[simp] theorem setRec_acf : (setRec s r v).acf = s.acf := rfl
@[simp] theorem setRec_cmpState : (setRec s r v).cmpState = s.cmpState := rfl
@[simp] theorem setRec_pc : (setRec s r v).pc = s.pc := rfl
@[simp] theorem setRec_fq : (setRec s r v).fq = s.fq := rfl
@[simp] theorem setRec_ctag : (setRec s r v).ctag = s.ctag := rfl
@[simp] theorem setRec_icPages : (setRec s r v).icPages = s.icPages := rfl
@[simp] theorem setRec_icWords : (setRec s r v).icWords = s.icWords := rfl
@[simp] theorem setRec_linkAdrs : (setRec s r v).linkAdrs = s.linkAdrs := rfl
@[simp] theorem setRec_linkMask : (setRec s r v).linkMask = s.linkMask := rfl
@[simp] theorem setRec_holdX : (setRec s r v).holdX = s.holdX := rfl
@[simp] theorem setRec_holdY : (setRec s r v).holdY = s.holdY := rfl
@[simp] theorem setRec_wbuf : (setRec s r v).wbuf = s.wbuf := rfl
@[simp] theorem setRec_fmJobs : (setRec s r v).fmJobs = s.fmJobs := rfl
@[simp] theorem setRec_lsu : (setRec s r v).lsu = s.lsu := rfl
@[simp] theorem setRec_cssq : (setRec s r v).cssq = s.cssq := rfl
@[simp] theorem setRec_q1 : (setRec s r v).q1 = s.q1 := rfl
@[simp] theorem setRec_q2 : (setRec s r v).q2 = s.q2 := rfl
@[simp] theorem setRec_residue : (setRec s r v).residue = s.residue := rfl
@[simp] theorem setRec_rxbusy : (setRec s r v).rxbusy = s.rxbusy := rfl
@[simp] theorem setRec_rxfull : (setRec s r v).rxfull = s.rxfull := rfl
@[simp] theorem setRec_txbusy : (setRec s r v).txbusy = s.txbusy := rfl
@[simp] theorem setRec_txfull : (setRec s r v).txfull = s.txfull := rfl
@[simp] theorem setRec_rxIdx : (setRec s r v).rxIdx = s.rxIdx := rfl
@[simp] theorem setRec_txIdx : (setRec s r v).txIdx = s.txIdx := rfl
@[simp] theorem setRec_rxCell : (setRec s r v).rxCell = s.rxCell := rfl
@[simp] theorem setRec_txCell : (setRec s r v).txCell = s.txCell := rfl
@[simp] theorem setRec_dma2Count : (setRec s r v).dma2Count = s.dma2Count := rfl
@[simp] theorem setRec_hecA : (setRec s r v).hecA = s.hecA := rfl
@[simp] theorem setRec_hecB : (setRec s r v).hecB = s.hecB := rfl
@[simp] theorem setRec_hecPhase : (setRec s r v).hecPhase = s.hecPhase := rfl
@[simp] theorem setRec_plus : (setRec s r v).plus = s.plus := rfl
@[simp] theorem setRec_rlaPrev : (setRec s r v).rlaPrev = s.rlaPrev := rfl
@[simp] theorem setRec_rlaTrap : (setRec s r v).rlaTrap = s.rlaTrap := rfl
@[simp] theorem setRec_popcShadow : (setRec s r v).popcShadow = s.popcShadow := rfl
@[simp] theorem setRec_segBranch : (setRec s r v).segBranch = s.segBranch := rfl
@[simp] theorem setRec_popfAge : (setRec s r v).popfAge = s.popfAge := rfl
@[simp] theorem setRec_dmaLag : (setRec s r v).dmaLag = s.dmaLag := rfl
@[simp] theorem setRec_fm : (setRec s r v).fm = s.fm := rfl
@[simp] theorem setRec_cb : (setRec s r v).cb = s.cb := rfl
@[simp] theorem setRec_sb : (setRec s r v).sb = s.sb := rfl
@[simp] theorem setRec_p1 : (setRec s r v).p1 = s.p1 := rfl
@[simp] theorem setRec_p2b : (setRec s r v).p2b = s.p2b := rfl
@[simp] theorem setRec_p2n : (setRec s r v).p2n = s.p2n := rfl
@[simp] theorem setRec_icsi : (setRec s r v).icsi = s.icsi := rfl
@[simp] theorem setRec_icsiPrev : (setRec s r v).icsiPrev = s.icsiPrev := rfl
@[simp] theorem setRec_pitEdges0 : (setRec s r v).pitEdges0 = s.pitEdges0 := rfl
@[simp] theorem setRec_pitEdges1 : (setRec s r v).pitEdges1 = s.pitEdges1 := rfl
@[simp] theorem setRec_sent : (setRec s r v).sent = s.sent := rfl
@[simp] theorem setRec_stuck : (setRec s r v).stuck = s.stuck := rfl
@[simp] theorem setRec_agenda : (setRec s r v).agenda = s.agenda := rfl
@[simp] theorem setRec_turn : (setRec s r v).turn = s.turn := rfl
@[simp] theorem setRec_draws : (setRec s r v).draws = s.draws := rfl
end

/-! ### `waiting`: a wait -/

section
variable (s : State)
@[simp] theorem waiting_cfg : (waiting s).cfg = s.cfg := rfl
@[simp] theorem waiting_regs : (waiting s).regs = s.regs := rfl
@[simp] theorem waiting_mode : (waiting s).mode = s.mode := rfl
@[simp] theorem waiting_fifo : (waiting s).fifo = s.fifo := rfl
@[simp] theorem waiting_fifoWr : (waiting s).fifoWr = s.fifoWr := rfl
@[simp] theorem waiting_fifoRd : (waiting s).fifoRd = s.fifoRd := rfl
@[simp] theorem waiting_opts : (waiting s).opts = s.opts := rfl
@[simp] theorem waiting_cinBusy : (waiting s).cinBusy = s.cinBusy := rfl
@[simp] theorem waiting_coutRdy : (waiting s).coutRdy = s.coutRdy := rfl
@[simp] theorem waiting_cinLag : (waiting s).cinLag = s.cinLag := rfl
@[simp] theorem waiting_coutLag : (waiting s).coutLag = s.coutLag := rfl
@[simp] theorem waiting_pitInit0 : (waiting s).pitInit0 = s.pitInit0 := rfl
@[simp] theorem waiting_pitInit1 : (waiting s).pitInit1 = s.pitInit1 := rfl
@[simp] theorem waiting_ovf : (waiting s).ovf = s.ovf := rfl
@[simp] theorem waiting_acf : (waiting s).acf = s.acf := rfl
@[simp] theorem waiting_cmpState : (waiting s).cmpState = s.cmpState := rfl
@[simp] theorem waiting_pc : (waiting s).pc = s.pc := rfl
@[simp] theorem waiting_fq : (waiting s).fq = s.fq := rfl
@[simp] theorem waiting_ctag : (waiting s).ctag = s.ctag := rfl
@[simp] theorem waiting_icPages : (waiting s).icPages = s.icPages := rfl
@[simp] theorem waiting_icWords : (waiting s).icWords = s.icWords := rfl
@[simp] theorem waiting_linkAdrs : (waiting s).linkAdrs = s.linkAdrs := rfl
@[simp] theorem waiting_linkMask : (waiting s).linkMask = s.linkMask := rfl
@[simp] theorem waiting_holdX : (waiting s).holdX = s.holdX := rfl
@[simp] theorem waiting_holdY : (waiting s).holdY = s.holdY := rfl
@[simp] theorem waiting_wbuf : (waiting s).wbuf = s.wbuf := rfl
@[simp] theorem waiting_fmJobs : (waiting s).fmJobs = s.fmJobs := rfl
@[simp] theorem waiting_lsu : (waiting s).lsu = s.lsu := rfl
@[simp] theorem waiting_cssq : (waiting s).cssq = s.cssq := rfl
@[simp] theorem waiting_q1 : (waiting s).q1 = s.q1 := rfl
@[simp] theorem waiting_q2 : (waiting s).q2 = s.q2 := rfl
@[simp] theorem waiting_residue : (waiting s).residue = s.residue := rfl
@[simp] theorem waiting_rxbusy : (waiting s).rxbusy = s.rxbusy := rfl
@[simp] theorem waiting_rxfull : (waiting s).rxfull = s.rxfull := rfl
@[simp] theorem waiting_txbusy : (waiting s).txbusy = s.txbusy := rfl
@[simp] theorem waiting_txfull : (waiting s).txfull = s.txfull := rfl
@[simp] theorem waiting_rxIdx : (waiting s).rxIdx = s.rxIdx := rfl
@[simp] theorem waiting_txIdx : (waiting s).txIdx = s.txIdx := rfl
@[simp] theorem waiting_rxCell : (waiting s).rxCell = s.rxCell := rfl
@[simp] theorem waiting_txCell : (waiting s).txCell = s.txCell := rfl
@[simp] theorem waiting_dma2Count : (waiting s).dma2Count = s.dma2Count := rfl
@[simp] theorem waiting_hecA : (waiting s).hecA = s.hecA := rfl
@[simp] theorem waiting_hecB : (waiting s).hecB = s.hecB := rfl
@[simp] theorem waiting_hecPhase : (waiting s).hecPhase = s.hecPhase := rfl
@[simp] theorem waiting_recs : (waiting s).recs = s.recs := rfl
@[simp] theorem waiting_plus : (waiting s).plus = s.plus := rfl
@[simp] theorem waiting_rlaPrev : (waiting s).rlaPrev = s.rlaPrev := rfl
@[simp] theorem waiting_rlaTrap : (waiting s).rlaTrap = s.rlaTrap := rfl
@[simp] theorem waiting_popcShadow : (waiting s).popcShadow = s.popcShadow := rfl
@[simp] theorem waiting_segBranch : (waiting s).segBranch = s.segBranch := rfl
@[simp] theorem waiting_popfAge : (waiting s).popfAge = s.popfAge := rfl
@[simp] theorem waiting_dmaLag : (waiting s).dmaLag = s.dmaLag := rfl
@[simp] theorem waiting_fm : (waiting s).fm = s.fm := rfl
@[simp] theorem waiting_cb : (waiting s).cb = s.cb := rfl
@[simp] theorem waiting_sb : (waiting s).sb = s.sb := rfl
@[simp] theorem waiting_p1 : (waiting s).p1 = s.p1 := rfl
@[simp] theorem waiting_p2b : (waiting s).p2b = s.p2b := rfl
@[simp] theorem waiting_p2n : (waiting s).p2n = s.p2n := rfl
@[simp] theorem waiting_icsi : (waiting s).icsi = s.icsi := rfl
@[simp] theorem waiting_icsiPrev : (waiting s).icsiPrev = s.icsiPrev := rfl
@[simp] theorem waiting_pitEdges0 : (waiting s).pitEdges0 = s.pitEdges0 := rfl
@[simp] theorem waiting_pitEdges1 : (waiting s).pitEdges1 = s.pitEdges1 := rfl
@[simp] theorem waiting_sent : (waiting s).sent = s.sent := rfl
@[simp] theorem waiting_stuck : (waiting s).stuck = s.stuck := rfl
@[simp] theorem waiting_agenda : (waiting s).agenda = s.agenda := rfl
end

/-! ### `advance`: the next address -/

section
variable (s : State) (q : List (BitVec 17 × FlowTag))
@[simp] theorem advance_cfg : (advance s q).cfg = s.cfg := by cases q <;> rfl
@[simp] theorem advance_regs : (advance s q).regs = s.regs := by cases q <;> rfl
@[simp] theorem advance_mode : (advance s q).mode = s.mode := by cases q <;> rfl
@[simp] theorem advance_fifo : (advance s q).fifo = s.fifo := by cases q <;> rfl
@[simp] theorem advance_fifoWr : (advance s q).fifoWr = s.fifoWr := by cases q <;> rfl
@[simp] theorem advance_fifoRd : (advance s q).fifoRd = s.fifoRd := by cases q <;> rfl
@[simp] theorem advance_opts : (advance s q).opts = s.opts := by cases q <;> rfl
@[simp] theorem advance_cinBusy : (advance s q).cinBusy = s.cinBusy := by cases q <;> rfl
@[simp] theorem advance_coutRdy : (advance s q).coutRdy = s.coutRdy := by cases q <;> rfl
@[simp] theorem advance_cinLag : (advance s q).cinLag = s.cinLag := by cases q <;> rfl
@[simp] theorem advance_coutLag : (advance s q).coutLag = s.coutLag := by cases q <;> rfl
@[simp] theorem advance_pitInit0 : (advance s q).pitInit0 = s.pitInit0 := by cases q <;> rfl
@[simp] theorem advance_pitInit1 : (advance s q).pitInit1 = s.pitInit1 := by cases q <;> rfl
@[simp] theorem advance_ovf : (advance s q).ovf = s.ovf := by cases q <;> rfl
@[simp] theorem advance_acf : (advance s q).acf = s.acf := by cases q <;> rfl
@[simp] theorem advance_cmpState : (advance s q).cmpState = s.cmpState := by cases q <;> rfl
@[simp] theorem advance_icPages : (advance s q).icPages = s.icPages := by cases q <;> rfl
@[simp] theorem advance_icWords : (advance s q).icWords = s.icWords := by cases q <;> rfl
@[simp] theorem advance_linkAdrs : (advance s q).linkAdrs = s.linkAdrs := by cases q <;> rfl
@[simp] theorem advance_linkMask : (advance s q).linkMask = s.linkMask := by cases q <;> rfl
@[simp] theorem advance_holdX : (advance s q).holdX = s.holdX := by cases q <;> rfl
@[simp] theorem advance_holdY : (advance s q).holdY = s.holdY := by cases q <;> rfl
@[simp] theorem advance_wbuf : (advance s q).wbuf = s.wbuf := by cases q <;> rfl
@[simp] theorem advance_fmJobs : (advance s q).fmJobs = s.fmJobs := by cases q <;> rfl
@[simp] theorem advance_lsu : (advance s q).lsu = s.lsu := by cases q <;> rfl
@[simp] theorem advance_cssq : (advance s q).cssq = s.cssq := by cases q <;> rfl
@[simp] theorem advance_q1 : (advance s q).q1 = s.q1 := by cases q <;> rfl
@[simp] theorem advance_q2 : (advance s q).q2 = s.q2 := by cases q <;> rfl
@[simp] theorem advance_residue : (advance s q).residue = s.residue := by cases q <;> rfl
@[simp] theorem advance_rxbusy : (advance s q).rxbusy = s.rxbusy := by cases q <;> rfl
@[simp] theorem advance_rxfull : (advance s q).rxfull = s.rxfull := by cases q <;> rfl
@[simp] theorem advance_txbusy : (advance s q).txbusy = s.txbusy := by cases q <;> rfl
@[simp] theorem advance_txfull : (advance s q).txfull = s.txfull := by cases q <;> rfl
@[simp] theorem advance_rxIdx : (advance s q).rxIdx = s.rxIdx := by cases q <;> rfl
@[simp] theorem advance_txIdx : (advance s q).txIdx = s.txIdx := by cases q <;> rfl
@[simp] theorem advance_rxCell : (advance s q).rxCell = s.rxCell := by cases q <;> rfl
@[simp] theorem advance_txCell : (advance s q).txCell = s.txCell := by cases q <;> rfl
@[simp] theorem advance_dma2Count : (advance s q).dma2Count = s.dma2Count := by cases q <;> rfl
@[simp] theorem advance_hecA : (advance s q).hecA = s.hecA := by cases q <;> rfl
@[simp] theorem advance_hecB : (advance s q).hecB = s.hecB := by cases q <;> rfl
@[simp] theorem advance_hecPhase : (advance s q).hecPhase = s.hecPhase := by cases q <;> rfl
@[simp] theorem advance_recs : (advance s q).recs = s.recs := by cases q <;> rfl
@[simp] theorem advance_plus : (advance s q).plus = s.plus := by cases q <;> rfl
@[simp] theorem advance_rlaPrev : (advance s q).rlaPrev = s.rlaPrev := by cases q <;> rfl
@[simp] theorem advance_rlaTrap : (advance s q).rlaTrap = s.rlaTrap := by cases q <;> rfl
@[simp] theorem advance_popcShadow : (advance s q).popcShadow = s.popcShadow := by cases q <;> rfl
@[simp] theorem advance_segBranch : (advance s q).segBranch = s.segBranch := by cases q <;> rfl
@[simp] theorem advance_popfAge : (advance s q).popfAge = s.popfAge := by cases q <;> rfl
@[simp] theorem advance_dmaLag : (advance s q).dmaLag = s.dmaLag := by cases q <;> rfl
@[simp] theorem advance_fm : (advance s q).fm = s.fm := by cases q <;> rfl
@[simp] theorem advance_cb : (advance s q).cb = s.cb := by cases q <;> rfl
@[simp] theorem advance_sb : (advance s q).sb = s.sb := by cases q <;> rfl
@[simp] theorem advance_p1 : (advance s q).p1 = s.p1 := by cases q <;> rfl
@[simp] theorem advance_p2b : (advance s q).p2b = s.p2b := by cases q <;> rfl
@[simp] theorem advance_p2n : (advance s q).p2n = s.p2n := by cases q <;> rfl
@[simp] theorem advance_icsi : (advance s q).icsi = s.icsi := by cases q <;> rfl
@[simp] theorem advance_icsiPrev : (advance s q).icsiPrev = s.icsiPrev := by cases q <;> rfl
@[simp] theorem advance_pitEdges0 : (advance s q).pitEdges0 = s.pitEdges0 := by cases q <;> rfl
@[simp] theorem advance_pitEdges1 : (advance s q).pitEdges1 = s.pitEdges1 := by cases q <;> rfl
@[simp] theorem advance_sent : (advance s q).sent = s.sent := by cases q <;> rfl
@[simp] theorem advance_stuck : (advance s q).stuck = s.stuck := by cases q <;> rfl
@[simp] theorem advance_agenda : (advance s q).agenda = s.agenda := by cases q <;> rfl
@[simp] theorem advance_turn : (advance s q).turn = s.turn := by cases q <;> rfl
@[simp] theorem advance_draws : (advance s q).draws = s.draws := by cases q <;> rfl
end

/-! ### `readEffects`: a read of R40 -/

section
variable (s : State) (l : List Reg)
@[simp] theorem readEffects_cfg : (readEffects s l).cfg = s.cfg := by unfold readEffects; split <;> rfl
@[simp] theorem readEffects_regs : (readEffects s l).regs = s.regs := by unfold readEffects; split <;> rfl
@[simp] theorem readEffects_mode : (readEffects s l).mode = s.mode := by unfold readEffects; split <;> rfl
@[simp] theorem readEffects_fifo : (readEffects s l).fifo = s.fifo := by unfold readEffects; split <;> rfl
@[simp] theorem readEffects_fifoWr : (readEffects s l).fifoWr = s.fifoWr := by unfold readEffects; split <;> rfl
@[simp] theorem readEffects_fifoRd : (readEffects s l).fifoRd = s.fifoRd := by unfold readEffects; split <;> rfl
@[simp] theorem readEffects_opts : (readEffects s l).opts = s.opts := by unfold readEffects; split <;> rfl
@[simp] theorem readEffects_coutRdy : (readEffects s l).coutRdy = s.coutRdy := by unfold readEffects; split <;> rfl
@[simp] theorem readEffects_coutLag : (readEffects s l).coutLag = s.coutLag := by unfold readEffects; split <;> rfl
@[simp] theorem readEffects_pitInit0 : (readEffects s l).pitInit0 = s.pitInit0 := by unfold readEffects; split <;> rfl
@[simp] theorem readEffects_pitInit1 : (readEffects s l).pitInit1 = s.pitInit1 := by unfold readEffects; split <;> rfl
@[simp] theorem readEffects_ovf : (readEffects s l).ovf = s.ovf := by unfold readEffects; split <;> rfl
@[simp] theorem readEffects_acf : (readEffects s l).acf = s.acf := by unfold readEffects; split <;> rfl
@[simp] theorem readEffects_cmpState : (readEffects s l).cmpState = s.cmpState := by unfold readEffects; split <;> rfl
@[simp] theorem readEffects_pc : (readEffects s l).pc = s.pc := by unfold readEffects; split <;> rfl
@[simp] theorem readEffects_fq : (readEffects s l).fq = s.fq := by unfold readEffects; split <;> rfl
@[simp] theorem readEffects_ctag : (readEffects s l).ctag = s.ctag := by unfold readEffects; split <;> rfl
@[simp] theorem readEffects_icPages : (readEffects s l).icPages = s.icPages := by unfold readEffects; split <;> rfl
@[simp] theorem readEffects_icWords : (readEffects s l).icWords = s.icWords := by unfold readEffects; split <;> rfl
@[simp] theorem readEffects_linkAdrs : (readEffects s l).linkAdrs = s.linkAdrs := by unfold readEffects; split <;> rfl
@[simp] theorem readEffects_linkMask : (readEffects s l).linkMask = s.linkMask := by unfold readEffects; split <;> rfl
@[simp] theorem readEffects_holdX : (readEffects s l).holdX = s.holdX := by unfold readEffects; split <;> rfl
@[simp] theorem readEffects_holdY : (readEffects s l).holdY = s.holdY := by unfold readEffects; split <;> rfl
@[simp] theorem readEffects_wbuf : (readEffects s l).wbuf = s.wbuf := by unfold readEffects; split <;> rfl
@[simp] theorem readEffects_fmJobs : (readEffects s l).fmJobs = s.fmJobs := by unfold readEffects; split <;> rfl
@[simp] theorem readEffects_lsu : (readEffects s l).lsu = s.lsu := by unfold readEffects; split <;> rfl
@[simp] theorem readEffects_cssq : (readEffects s l).cssq = s.cssq := by unfold readEffects; split <;> rfl
@[simp] theorem readEffects_q1 : (readEffects s l).q1 = s.q1 := by unfold readEffects; split <;> rfl
@[simp] theorem readEffects_q2 : (readEffects s l).q2 = s.q2 := by unfold readEffects; split <;> rfl
@[simp] theorem readEffects_residue : (readEffects s l).residue = s.residue := by unfold readEffects; split <;> rfl
@[simp] theorem readEffects_rxbusy : (readEffects s l).rxbusy = s.rxbusy := by unfold readEffects; split <;> rfl
@[simp] theorem readEffects_rxfull : (readEffects s l).rxfull = s.rxfull := by unfold readEffects; split <;> rfl
@[simp] theorem readEffects_txbusy : (readEffects s l).txbusy = s.txbusy := by unfold readEffects; split <;> rfl
@[simp] theorem readEffects_txfull : (readEffects s l).txfull = s.txfull := by unfold readEffects; split <;> rfl
@[simp] theorem readEffects_rxIdx : (readEffects s l).rxIdx = s.rxIdx := by unfold readEffects; split <;> rfl
@[simp] theorem readEffects_txIdx : (readEffects s l).txIdx = s.txIdx := by unfold readEffects; split <;> rfl
@[simp] theorem readEffects_rxCell : (readEffects s l).rxCell = s.rxCell := by unfold readEffects; split <;> rfl
@[simp] theorem readEffects_txCell : (readEffects s l).txCell = s.txCell := by unfold readEffects; split <;> rfl
@[simp] theorem readEffects_dma2Count : (readEffects s l).dma2Count = s.dma2Count := by unfold readEffects; split <;> rfl
@[simp] theorem readEffects_hecA : (readEffects s l).hecA = s.hecA := by unfold readEffects; split <;> rfl
@[simp] theorem readEffects_hecB : (readEffects s l).hecB = s.hecB := by unfold readEffects; split <;> rfl
@[simp] theorem readEffects_hecPhase : (readEffects s l).hecPhase = s.hecPhase := by unfold readEffects; split <;> rfl
@[simp] theorem readEffects_recs : (readEffects s l).recs = s.recs := by unfold readEffects; split <;> rfl
@[simp] theorem readEffects_plus : (readEffects s l).plus = s.plus := by unfold readEffects; split <;> rfl
@[simp] theorem readEffects_rlaPrev : (readEffects s l).rlaPrev = s.rlaPrev := by unfold readEffects; split <;> rfl
@[simp] theorem readEffects_rlaTrap : (readEffects s l).rlaTrap = s.rlaTrap := by unfold readEffects; split <;> rfl
@[simp] theorem readEffects_popcShadow : (readEffects s l).popcShadow = s.popcShadow := by unfold readEffects; split <;> rfl
@[simp] theorem readEffects_segBranch : (readEffects s l).segBranch = s.segBranch := by unfold readEffects; split <;> rfl
@[simp] theorem readEffects_popfAge : (readEffects s l).popfAge = s.popfAge := by unfold readEffects; split <;> rfl
@[simp] theorem readEffects_dmaLag : (readEffects s l).dmaLag = s.dmaLag := by unfold readEffects; split <;> rfl
@[simp] theorem readEffects_fm : (readEffects s l).fm = s.fm := by unfold readEffects; split <;> rfl
@[simp] theorem readEffects_cb : (readEffects s l).cb = s.cb := by unfold readEffects; split <;> rfl
@[simp] theorem readEffects_sb : (readEffects s l).sb = s.sb := by unfold readEffects; split <;> rfl
@[simp] theorem readEffects_p1 : (readEffects s l).p1 = s.p1 := by unfold readEffects; split <;> rfl
@[simp] theorem readEffects_p2b : (readEffects s l).p2b = s.p2b := by unfold readEffects; split <;> rfl
@[simp] theorem readEffects_p2n : (readEffects s l).p2n = s.p2n := by unfold readEffects; split <;> rfl
@[simp] theorem readEffects_icsi : (readEffects s l).icsi = s.icsi := by unfold readEffects; split <;> rfl
@[simp] theorem readEffects_icsiPrev : (readEffects s l).icsiPrev = s.icsiPrev := by unfold readEffects; split <;> rfl
@[simp] theorem readEffects_pitEdges0 : (readEffects s l).pitEdges0 = s.pitEdges0 := by unfold readEffects; split <;> rfl
@[simp] theorem readEffects_pitEdges1 : (readEffects s l).pitEdges1 = s.pitEdges1 := by unfold readEffects; split <;> rfl
@[simp] theorem readEffects_sent : (readEffects s l).sent = s.sent := by unfold readEffects; split <;> rfl
@[simp] theorem readEffects_stuck : (readEffects s l).stuck = s.stuck := by unfold readEffects; split <;> rfl
@[simp] theorem readEffects_agenda : (readEffects s l).agenda = s.agenda := by unfold readEffects; split <;> rfl
@[simp] theorem readEffects_turn : (readEffects s l).turn = s.turn := by unfold readEffects; split <;> rfl
@[simp] theorem readEffects_draws : (readEffects s l).draws = s.draws := by unfold readEffects; split <;> rfl
end

/-! ### `touchWord`: a word the cache may hold -/

section
variable (s : State) (w : Nat)
@[simp] theorem touchWord_cfg : (touchWord s w).cfg = s.cfg := by unfold touchWord; split <;> rfl
@[simp] theorem touchWord_regs : (touchWord s w).regs = s.regs := by unfold touchWord; split <;> rfl
@[simp] theorem touchWord_mode : (touchWord s w).mode = s.mode := by unfold touchWord; split <;> rfl
@[simp] theorem touchWord_fifo : (touchWord s w).fifo = s.fifo := by unfold touchWord; split <;> rfl
@[simp] theorem touchWord_fifoWr : (touchWord s w).fifoWr = s.fifoWr := by unfold touchWord; split <;> rfl
@[simp] theorem touchWord_fifoRd : (touchWord s w).fifoRd = s.fifoRd := by unfold touchWord; split <;> rfl
@[simp] theorem touchWord_opts : (touchWord s w).opts = s.opts := by unfold touchWord; split <;> rfl
@[simp] theorem touchWord_cinBusy : (touchWord s w).cinBusy = s.cinBusy := by unfold touchWord; split <;> rfl
@[simp] theorem touchWord_coutRdy : (touchWord s w).coutRdy = s.coutRdy := by unfold touchWord; split <;> rfl
@[simp] theorem touchWord_cinLag : (touchWord s w).cinLag = s.cinLag := by unfold touchWord; split <;> rfl
@[simp] theorem touchWord_coutLag : (touchWord s w).coutLag = s.coutLag := by unfold touchWord; split <;> rfl
@[simp] theorem touchWord_pitInit0 : (touchWord s w).pitInit0 = s.pitInit0 := by unfold touchWord; split <;> rfl
@[simp] theorem touchWord_pitInit1 : (touchWord s w).pitInit1 = s.pitInit1 := by unfold touchWord; split <;> rfl
@[simp] theorem touchWord_ovf : (touchWord s w).ovf = s.ovf := by unfold touchWord; split <;> rfl
@[simp] theorem touchWord_acf : (touchWord s w).acf = s.acf := by unfold touchWord; split <;> rfl
@[simp] theorem touchWord_cmpState : (touchWord s w).cmpState = s.cmpState := by unfold touchWord; split <;> rfl
@[simp] theorem touchWord_pc : (touchWord s w).pc = s.pc := by unfold touchWord; split <;> rfl
@[simp] theorem touchWord_fq : (touchWord s w).fq = s.fq := by unfold touchWord; split <;> rfl
@[simp] theorem touchWord_ctag : (touchWord s w).ctag = s.ctag := by unfold touchWord; split <;> rfl
@[simp] theorem touchWord_icPages : (touchWord s w).icPages = s.icPages := by unfold touchWord; split <;> rfl
@[simp] theorem touchWord_linkAdrs : (touchWord s w).linkAdrs = s.linkAdrs := by unfold touchWord; split <;> rfl
@[simp] theorem touchWord_linkMask : (touchWord s w).linkMask = s.linkMask := by unfold touchWord; split <;> rfl
@[simp] theorem touchWord_holdX : (touchWord s w).holdX = s.holdX := by unfold touchWord; split <;> rfl
@[simp] theorem touchWord_holdY : (touchWord s w).holdY = s.holdY := by unfold touchWord; split <;> rfl
@[simp] theorem touchWord_wbuf : (touchWord s w).wbuf = s.wbuf := by unfold touchWord; split <;> rfl
@[simp] theorem touchWord_fmJobs : (touchWord s w).fmJobs = s.fmJobs := by unfold touchWord; split <;> rfl
@[simp] theorem touchWord_lsu : (touchWord s w).lsu = s.lsu := by unfold touchWord; split <;> rfl
@[simp] theorem touchWord_cssq : (touchWord s w).cssq = s.cssq := by unfold touchWord; split <;> rfl
@[simp] theorem touchWord_q1 : (touchWord s w).q1 = s.q1 := by unfold touchWord; split <;> rfl
@[simp] theorem touchWord_q2 : (touchWord s w).q2 = s.q2 := by unfold touchWord; split <;> rfl
@[simp] theorem touchWord_residue : (touchWord s w).residue = s.residue := by unfold touchWord; split <;> rfl
@[simp] theorem touchWord_rxbusy : (touchWord s w).rxbusy = s.rxbusy := by unfold touchWord; split <;> rfl
@[simp] theorem touchWord_rxfull : (touchWord s w).rxfull = s.rxfull := by unfold touchWord; split <;> rfl
@[simp] theorem touchWord_txbusy : (touchWord s w).txbusy = s.txbusy := by unfold touchWord; split <;> rfl
@[simp] theorem touchWord_txfull : (touchWord s w).txfull = s.txfull := by unfold touchWord; split <;> rfl
@[simp] theorem touchWord_rxIdx : (touchWord s w).rxIdx = s.rxIdx := by unfold touchWord; split <;> rfl
@[simp] theorem touchWord_txIdx : (touchWord s w).txIdx = s.txIdx := by unfold touchWord; split <;> rfl
@[simp] theorem touchWord_rxCell : (touchWord s w).rxCell = s.rxCell := by unfold touchWord; split <;> rfl
@[simp] theorem touchWord_txCell : (touchWord s w).txCell = s.txCell := by unfold touchWord; split <;> rfl
@[simp] theorem touchWord_dma2Count : (touchWord s w).dma2Count = s.dma2Count := by unfold touchWord; split <;> rfl
@[simp] theorem touchWord_hecA : (touchWord s w).hecA = s.hecA := by unfold touchWord; split <;> rfl
@[simp] theorem touchWord_hecB : (touchWord s w).hecB = s.hecB := by unfold touchWord; split <;> rfl
@[simp] theorem touchWord_hecPhase : (touchWord s w).hecPhase = s.hecPhase := by unfold touchWord; split <;> rfl
@[simp] theorem touchWord_recs : (touchWord s w).recs = s.recs := by unfold touchWord; split <;> rfl
@[simp] theorem touchWord_plus : (touchWord s w).plus = s.plus := by unfold touchWord; split <;> rfl
@[simp] theorem touchWord_rlaPrev : (touchWord s w).rlaPrev = s.rlaPrev := by unfold touchWord; split <;> rfl
@[simp] theorem touchWord_rlaTrap : (touchWord s w).rlaTrap = s.rlaTrap := by unfold touchWord; split <;> rfl
@[simp] theorem touchWord_popcShadow : (touchWord s w).popcShadow = s.popcShadow := by unfold touchWord; split <;> rfl
@[simp] theorem touchWord_segBranch : (touchWord s w).segBranch = s.segBranch := by unfold touchWord; split <;> rfl
@[simp] theorem touchWord_popfAge : (touchWord s w).popfAge = s.popfAge := by unfold touchWord; split <;> rfl
@[simp] theorem touchWord_dmaLag : (touchWord s w).dmaLag = s.dmaLag := by unfold touchWord; split <;> rfl
@[simp] theorem touchWord_fm : (touchWord s w).fm = s.fm := by unfold touchWord; split <;> rfl
@[simp] theorem touchWord_cb : (touchWord s w).cb = s.cb := by unfold touchWord; split <;> rfl
@[simp] theorem touchWord_sb : (touchWord s w).sb = s.sb := by unfold touchWord; split <;> rfl
@[simp] theorem touchWord_p1 : (touchWord s w).p1 = s.p1 := by unfold touchWord; split <;> rfl
@[simp] theorem touchWord_p2b : (touchWord s w).p2b = s.p2b := by unfold touchWord; split <;> rfl
@[simp] theorem touchWord_p2n : (touchWord s w).p2n = s.p2n := by unfold touchWord; split <;> rfl
@[simp] theorem touchWord_icsi : (touchWord s w).icsi = s.icsi := by unfold touchWord; split <;> rfl
@[simp] theorem touchWord_icsiPrev : (touchWord s w).icsiPrev = s.icsiPrev := by unfold touchWord; split <;> rfl
@[simp] theorem touchWord_pitEdges0 : (touchWord s w).pitEdges0 = s.pitEdges0 := by unfold touchWord; split <;> rfl
@[simp] theorem touchWord_pitEdges1 : (touchWord s w).pitEdges1 = s.pitEdges1 := by unfold touchWord; split <;> rfl
@[simp] theorem touchWord_sent : (touchWord s w).sent = s.sent := by unfold touchWord; split <;> rfl
@[simp] theorem touchWord_stuck : (touchWord s w).stuck = s.stuck := by unfold touchWord; split <;> rfl
@[simp] theorem touchWord_agenda : (touchWord s w).agenda = s.agenda := by unfold touchWord; split <;> rfl
@[simp] theorem touchWord_turn : (touchWord s w).turn = s.turn := by unfold touchWord; split <;> rfl
@[simp] theorem touchWord_draws : (touchWord s w).draws = s.draws := by unfold touchWord; split <;> rfl
end

/-! ### `postWrite`: a posted write -/

section
variable (s : State) (a : Nat) (v : Half)
@[simp] theorem postWrite_cfg : (postWrite s a v).cfg = s.cfg := by unfold postWrite; simp
@[simp] theorem postWrite_regs : (postWrite s a v).regs = s.regs := by unfold postWrite; simp
@[simp] theorem postWrite_mode : (postWrite s a v).mode = s.mode := by unfold postWrite; simp
@[simp] theorem postWrite_fifo : (postWrite s a v).fifo = s.fifo := by unfold postWrite; simp
@[simp] theorem postWrite_fifoWr : (postWrite s a v).fifoWr = s.fifoWr := by unfold postWrite; simp
@[simp] theorem postWrite_fifoRd : (postWrite s a v).fifoRd = s.fifoRd := by unfold postWrite; simp
@[simp] theorem postWrite_opts : (postWrite s a v).opts = s.opts := by unfold postWrite; simp
@[simp] theorem postWrite_cinBusy : (postWrite s a v).cinBusy = s.cinBusy := by unfold postWrite; simp
@[simp] theorem postWrite_coutRdy : (postWrite s a v).coutRdy = s.coutRdy := by unfold postWrite; simp
@[simp] theorem postWrite_cinLag : (postWrite s a v).cinLag = s.cinLag := by unfold postWrite; simp
@[simp] theorem postWrite_coutLag : (postWrite s a v).coutLag = s.coutLag := by unfold postWrite; simp
@[simp] theorem postWrite_pitInit0 : (postWrite s a v).pitInit0 = s.pitInit0 := by unfold postWrite; simp
@[simp] theorem postWrite_pitInit1 : (postWrite s a v).pitInit1 = s.pitInit1 := by unfold postWrite; simp
@[simp] theorem postWrite_ovf : (postWrite s a v).ovf = s.ovf := by unfold postWrite; simp
@[simp] theorem postWrite_acf : (postWrite s a v).acf = s.acf := by unfold postWrite; simp
@[simp] theorem postWrite_cmpState : (postWrite s a v).cmpState = s.cmpState := by unfold postWrite; simp
@[simp] theorem postWrite_pc : (postWrite s a v).pc = s.pc := by unfold postWrite; simp
@[simp] theorem postWrite_fq : (postWrite s a v).fq = s.fq := by unfold postWrite; simp
@[simp] theorem postWrite_ctag : (postWrite s a v).ctag = s.ctag := by unfold postWrite; simp
@[simp] theorem postWrite_icPages : (postWrite s a v).icPages = s.icPages := by unfold postWrite; simp
@[simp] theorem postWrite_linkAdrs : (postWrite s a v).linkAdrs = s.linkAdrs := by unfold postWrite; simp
@[simp] theorem postWrite_linkMask : (postWrite s a v).linkMask = s.linkMask := by unfold postWrite; simp
@[simp] theorem postWrite_holdX : (postWrite s a v).holdX = s.holdX := by unfold postWrite; simp
@[simp] theorem postWrite_holdY : (postWrite s a v).holdY = s.holdY := by unfold postWrite; simp
@[simp] theorem postWrite_fmJobs : (postWrite s a v).fmJobs = s.fmJobs := by unfold postWrite; simp
@[simp] theorem postWrite_lsu : (postWrite s a v).lsu = s.lsu := by unfold postWrite; simp
@[simp] theorem postWrite_cssq : (postWrite s a v).cssq = s.cssq := by unfold postWrite; simp
@[simp] theorem postWrite_q1 : (postWrite s a v).q1 = s.q1 := by unfold postWrite; simp
@[simp] theorem postWrite_q2 : (postWrite s a v).q2 = s.q2 := by unfold postWrite; simp
@[simp] theorem postWrite_residue : (postWrite s a v).residue = s.residue := by unfold postWrite; simp
@[simp] theorem postWrite_rxbusy : (postWrite s a v).rxbusy = s.rxbusy := by unfold postWrite; simp
@[simp] theorem postWrite_rxfull : (postWrite s a v).rxfull = s.rxfull := by unfold postWrite; simp
@[simp] theorem postWrite_txbusy : (postWrite s a v).txbusy = s.txbusy := by unfold postWrite; simp
@[simp] theorem postWrite_txfull : (postWrite s a v).txfull = s.txfull := by unfold postWrite; simp
@[simp] theorem postWrite_rxIdx : (postWrite s a v).rxIdx = s.rxIdx := by unfold postWrite; simp
@[simp] theorem postWrite_txIdx : (postWrite s a v).txIdx = s.txIdx := by unfold postWrite; simp
@[simp] theorem postWrite_rxCell : (postWrite s a v).rxCell = s.rxCell := by unfold postWrite; simp
@[simp] theorem postWrite_txCell : (postWrite s a v).txCell = s.txCell := by unfold postWrite; simp
@[simp] theorem postWrite_dma2Count : (postWrite s a v).dma2Count = s.dma2Count := by unfold postWrite; simp
@[simp] theorem postWrite_hecA : (postWrite s a v).hecA = s.hecA := by unfold postWrite; simp
@[simp] theorem postWrite_hecB : (postWrite s a v).hecB = s.hecB := by unfold postWrite; simp
@[simp] theorem postWrite_hecPhase : (postWrite s a v).hecPhase = s.hecPhase := by unfold postWrite; simp
@[simp] theorem postWrite_recs : (postWrite s a v).recs = s.recs := by unfold postWrite; simp
@[simp] theorem postWrite_plus : (postWrite s a v).plus = s.plus := by unfold postWrite; simp
@[simp] theorem postWrite_rlaPrev : (postWrite s a v).rlaPrev = s.rlaPrev := by unfold postWrite; simp
@[simp] theorem postWrite_rlaTrap : (postWrite s a v).rlaTrap = s.rlaTrap := by unfold postWrite; simp
@[simp] theorem postWrite_popcShadow : (postWrite s a v).popcShadow = s.popcShadow := by unfold postWrite; simp
@[simp] theorem postWrite_segBranch : (postWrite s a v).segBranch = s.segBranch := by unfold postWrite; simp
@[simp] theorem postWrite_popfAge : (postWrite s a v).popfAge = s.popfAge := by unfold postWrite; simp
@[simp] theorem postWrite_dmaLag : (postWrite s a v).dmaLag = s.dmaLag := by unfold postWrite; simp
@[simp] theorem postWrite_fm : (postWrite s a v).fm = s.fm := by unfold postWrite; simp
@[simp] theorem postWrite_cb : (postWrite s a v).cb = s.cb := by unfold postWrite; simp
@[simp] theorem postWrite_sb : (postWrite s a v).sb = s.sb := by unfold postWrite; simp
@[simp] theorem postWrite_p1 : (postWrite s a v).p1 = s.p1 := by unfold postWrite; simp
@[simp] theorem postWrite_p2b : (postWrite s a v).p2b = s.p2b := by unfold postWrite; simp
@[simp] theorem postWrite_p2n : (postWrite s a v).p2n = s.p2n := by unfold postWrite; simp
@[simp] theorem postWrite_icsi : (postWrite s a v).icsi = s.icsi := by unfold postWrite; simp
@[simp] theorem postWrite_icsiPrev : (postWrite s a v).icsiPrev = s.icsiPrev := by unfold postWrite; simp
@[simp] theorem postWrite_pitEdges0 : (postWrite s a v).pitEdges0 = s.pitEdges0 := by unfold postWrite; simp
@[simp] theorem postWrite_pitEdges1 : (postWrite s a v).pitEdges1 = s.pitEdges1 := by unfold postWrite; simp
@[simp] theorem postWrite_sent : (postWrite s a v).sent = s.sent := by unfold postWrite; simp
@[simp] theorem postWrite_stuck : (postWrite s a v).stuck = s.stuck := by unfold postWrite; simp
@[simp] theorem postWrite_agenda : (postWrite s a v).agenda = s.agenda := by unfold postWrite; simp
@[simp] theorem postWrite_turn : (postWrite s a v).turn = s.turn := by unfold postWrite; simp
@[simp] theorem postWrite_draws : (postWrite s a v).draws = s.draws := by unfold postWrite; simp
end

/-! ### `ripen` and `tick`: the completion of an instruction -/

/-- The increments that land change registers only. -/
theorem ripen_eq (s : State) (l : List PlusInc) : ∃ g, ripen s l = { s with regs := g } := by
  induction l generalizing s with
  | nil => exact ⟨s.regs, rfl⟩
  | cons p l ih =>
    unfold ripen
    split
    · obtain ⟨g, h⟩ := ih (setReg s p.r p.new)
      exact ⟨g, h.trans rfl⟩
    · exact ih s

section
variable (s : State) (l : List PlusInc) (d : Done)
@[simp] theorem ripen_cfg : (ripen s l).cfg = s.cfg := by obtain ⟨g, h⟩ := ripen_eq s l; rw [h]
@[simp] theorem ripen_mode : (ripen s l).mode = s.mode := by obtain ⟨g, h⟩ := ripen_eq s l; rw [h]
@[simp] theorem ripen_fifo : (ripen s l).fifo = s.fifo := by obtain ⟨g, h⟩ := ripen_eq s l; rw [h]
@[simp] theorem ripen_fifoWr : (ripen s l).fifoWr = s.fifoWr := by obtain ⟨g, h⟩ := ripen_eq s l; rw [h]
@[simp] theorem ripen_fifoRd : (ripen s l).fifoRd = s.fifoRd := by obtain ⟨g, h⟩ := ripen_eq s l; rw [h]
@[simp] theorem ripen_opts : (ripen s l).opts = s.opts := by obtain ⟨g, h⟩ := ripen_eq s l; rw [h]
@[simp] theorem ripen_cinBusy : (ripen s l).cinBusy = s.cinBusy := by obtain ⟨g, h⟩ := ripen_eq s l; rw [h]
@[simp] theorem ripen_coutRdy : (ripen s l).coutRdy = s.coutRdy := by obtain ⟨g, h⟩ := ripen_eq s l; rw [h]
@[simp] theorem ripen_cinLag : (ripen s l).cinLag = s.cinLag := by obtain ⟨g, h⟩ := ripen_eq s l; rw [h]
@[simp] theorem ripen_coutLag : (ripen s l).coutLag = s.coutLag := by obtain ⟨g, h⟩ := ripen_eq s l; rw [h]
@[simp] theorem ripen_pitInit0 : (ripen s l).pitInit0 = s.pitInit0 := by obtain ⟨g, h⟩ := ripen_eq s l; rw [h]
@[simp] theorem ripen_pitInit1 : (ripen s l).pitInit1 = s.pitInit1 := by obtain ⟨g, h⟩ := ripen_eq s l; rw [h]
@[simp] theorem ripen_ovf : (ripen s l).ovf = s.ovf := by obtain ⟨g, h⟩ := ripen_eq s l; rw [h]
@[simp] theorem ripen_acf : (ripen s l).acf = s.acf := by obtain ⟨g, h⟩ := ripen_eq s l; rw [h]
@[simp] theorem ripen_cmpState : (ripen s l).cmpState = s.cmpState := by obtain ⟨g, h⟩ := ripen_eq s l; rw [h]
@[simp] theorem ripen_pc : (ripen s l).pc = s.pc := by obtain ⟨g, h⟩ := ripen_eq s l; rw [h]
@[simp] theorem ripen_fq : (ripen s l).fq = s.fq := by obtain ⟨g, h⟩ := ripen_eq s l; rw [h]
@[simp] theorem ripen_ctag : (ripen s l).ctag = s.ctag := by obtain ⟨g, h⟩ := ripen_eq s l; rw [h]
@[simp] theorem ripen_icPages : (ripen s l).icPages = s.icPages := by obtain ⟨g, h⟩ := ripen_eq s l; rw [h]
@[simp] theorem ripen_icWords : (ripen s l).icWords = s.icWords := by obtain ⟨g, h⟩ := ripen_eq s l; rw [h]
@[simp] theorem ripen_linkAdrs : (ripen s l).linkAdrs = s.linkAdrs := by obtain ⟨g, h⟩ := ripen_eq s l; rw [h]
@[simp] theorem ripen_linkMask : (ripen s l).linkMask = s.linkMask := by obtain ⟨g, h⟩ := ripen_eq s l; rw [h]
@[simp] theorem ripen_holdX : (ripen s l).holdX = s.holdX := by obtain ⟨g, h⟩ := ripen_eq s l; rw [h]
@[simp] theorem ripen_holdY : (ripen s l).holdY = s.holdY := by obtain ⟨g, h⟩ := ripen_eq s l; rw [h]
@[simp] theorem ripen_wbuf : (ripen s l).wbuf = s.wbuf := by obtain ⟨g, h⟩ := ripen_eq s l; rw [h]
@[simp] theorem ripen_fmJobs : (ripen s l).fmJobs = s.fmJobs := by obtain ⟨g, h⟩ := ripen_eq s l; rw [h]
@[simp] theorem ripen_lsu : (ripen s l).lsu = s.lsu := by obtain ⟨g, h⟩ := ripen_eq s l; rw [h]
@[simp] theorem ripen_cssq : (ripen s l).cssq = s.cssq := by obtain ⟨g, h⟩ := ripen_eq s l; rw [h]
@[simp] theorem ripen_q1 : (ripen s l).q1 = s.q1 := by obtain ⟨g, h⟩ := ripen_eq s l; rw [h]
@[simp] theorem ripen_q2 : (ripen s l).q2 = s.q2 := by obtain ⟨g, h⟩ := ripen_eq s l; rw [h]
@[simp] theorem ripen_residue : (ripen s l).residue = s.residue := by obtain ⟨g, h⟩ := ripen_eq s l; rw [h]
@[simp] theorem ripen_rxbusy : (ripen s l).rxbusy = s.rxbusy := by obtain ⟨g, h⟩ := ripen_eq s l; rw [h]
@[simp] theorem ripen_rxfull : (ripen s l).rxfull = s.rxfull := by obtain ⟨g, h⟩ := ripen_eq s l; rw [h]
@[simp] theorem ripen_txbusy : (ripen s l).txbusy = s.txbusy := by obtain ⟨g, h⟩ := ripen_eq s l; rw [h]
@[simp] theorem ripen_txfull : (ripen s l).txfull = s.txfull := by obtain ⟨g, h⟩ := ripen_eq s l; rw [h]
@[simp] theorem ripen_rxIdx : (ripen s l).rxIdx = s.rxIdx := by obtain ⟨g, h⟩ := ripen_eq s l; rw [h]
@[simp] theorem ripen_txIdx : (ripen s l).txIdx = s.txIdx := by obtain ⟨g, h⟩ := ripen_eq s l; rw [h]
@[simp] theorem ripen_rxCell : (ripen s l).rxCell = s.rxCell := by obtain ⟨g, h⟩ := ripen_eq s l; rw [h]
@[simp] theorem ripen_txCell : (ripen s l).txCell = s.txCell := by obtain ⟨g, h⟩ := ripen_eq s l; rw [h]
@[simp] theorem ripen_dma2Count : (ripen s l).dma2Count = s.dma2Count := by obtain ⟨g, h⟩ := ripen_eq s l; rw [h]
@[simp] theorem ripen_hecA : (ripen s l).hecA = s.hecA := by obtain ⟨g, h⟩ := ripen_eq s l; rw [h]
@[simp] theorem ripen_hecB : (ripen s l).hecB = s.hecB := by obtain ⟨g, h⟩ := ripen_eq s l; rw [h]
@[simp] theorem ripen_hecPhase : (ripen s l).hecPhase = s.hecPhase := by obtain ⟨g, h⟩ := ripen_eq s l; rw [h]
@[simp] theorem ripen_recs : (ripen s l).recs = s.recs := by obtain ⟨g, h⟩ := ripen_eq s l; rw [h]
@[simp] theorem ripen_plus : (ripen s l).plus = s.plus := by obtain ⟨g, h⟩ := ripen_eq s l; rw [h]
@[simp] theorem ripen_rlaPrev : (ripen s l).rlaPrev = s.rlaPrev := by obtain ⟨g, h⟩ := ripen_eq s l; rw [h]
@[simp] theorem ripen_rlaTrap : (ripen s l).rlaTrap = s.rlaTrap := by obtain ⟨g, h⟩ := ripen_eq s l; rw [h]
@[simp] theorem ripen_popcShadow : (ripen s l).popcShadow = s.popcShadow := by obtain ⟨g, h⟩ := ripen_eq s l; rw [h]
@[simp] theorem ripen_segBranch : (ripen s l).segBranch = s.segBranch := by obtain ⟨g, h⟩ := ripen_eq s l; rw [h]
@[simp] theorem ripen_popfAge : (ripen s l).popfAge = s.popfAge := by obtain ⟨g, h⟩ := ripen_eq s l; rw [h]
@[simp] theorem ripen_dmaLag : (ripen s l).dmaLag = s.dmaLag := by obtain ⟨g, h⟩ := ripen_eq s l; rw [h]
@[simp] theorem ripen_fm : (ripen s l).fm = s.fm := by obtain ⟨g, h⟩ := ripen_eq s l; rw [h]
@[simp] theorem ripen_cb : (ripen s l).cb = s.cb := by obtain ⟨g, h⟩ := ripen_eq s l; rw [h]
@[simp] theorem ripen_sb : (ripen s l).sb = s.sb := by obtain ⟨g, h⟩ := ripen_eq s l; rw [h]
@[simp] theorem ripen_p1 : (ripen s l).p1 = s.p1 := by obtain ⟨g, h⟩ := ripen_eq s l; rw [h]
@[simp] theorem ripen_p2b : (ripen s l).p2b = s.p2b := by obtain ⟨g, h⟩ := ripen_eq s l; rw [h]
@[simp] theorem ripen_p2n : (ripen s l).p2n = s.p2n := by obtain ⟨g, h⟩ := ripen_eq s l; rw [h]
@[simp] theorem ripen_icsi : (ripen s l).icsi = s.icsi := by obtain ⟨g, h⟩ := ripen_eq s l; rw [h]
@[simp] theorem ripen_icsiPrev : (ripen s l).icsiPrev = s.icsiPrev := by obtain ⟨g, h⟩ := ripen_eq s l; rw [h]
@[simp] theorem ripen_pitEdges0 : (ripen s l).pitEdges0 = s.pitEdges0 := by obtain ⟨g, h⟩ := ripen_eq s l; rw [h]
@[simp] theorem ripen_pitEdges1 : (ripen s l).pitEdges1 = s.pitEdges1 := by obtain ⟨g, h⟩ := ripen_eq s l; rw [h]
@[simp] theorem ripen_sent : (ripen s l).sent = s.sent := by obtain ⟨g, h⟩ := ripen_eq s l; rw [h]
@[simp] theorem ripen_stuck : (ripen s l).stuck = s.stuck := by obtain ⟨g, h⟩ := ripen_eq s l; rw [h]
@[simp] theorem ripen_agenda : (ripen s l).agenda = s.agenda := by obtain ⟨g, h⟩ := ripen_eq s l; rw [h]
@[simp] theorem ripen_turn : (ripen s l).turn = s.turn := by obtain ⟨g, h⟩ := ripen_eq s l; rw [h]
@[simp] theorem ripen_draws : (ripen s l).draws = s.draws := by obtain ⟨g, h⟩ := ripen_eq s l; rw [h]

@[simp] theorem tick_cfg : (tick s d).cfg = s.cfg := by simp [tick]
@[simp] theorem tick_mode : (tick s d).mode = s.mode := by simp [tick]
@[simp] theorem tick_fifo : (tick s d).fifo = s.fifo := by simp [tick]
@[simp] theorem tick_fifoWr : (tick s d).fifoWr = s.fifoWr := by simp [tick]
@[simp] theorem tick_fifoRd : (tick s d).fifoRd = s.fifoRd := by simp [tick]
@[simp] theorem tick_opts : (tick s d).opts = s.opts := by simp [tick]
@[simp] theorem tick_cinBusy : (tick s d).cinBusy = s.cinBusy := by simp [tick]
@[simp] theorem tick_coutRdy : (tick s d).coutRdy = s.coutRdy := by simp [tick]
@[simp] theorem tick_pitInit0 : (tick s d).pitInit0 = s.pitInit0 := by simp [tick]
@[simp] theorem tick_pitInit1 : (tick s d).pitInit1 = s.pitInit1 := by simp [tick]
@[simp] theorem tick_ovf : (tick s d).ovf = s.ovf := by simp [tick]
@[simp] theorem tick_acf : (tick s d).acf = s.acf := by simp [tick]
@[simp] theorem tick_cmpState : (tick s d).cmpState = s.cmpState := by simp [tick]
@[simp] theorem tick_pc : (tick s d).pc = s.pc := by simp [tick]
@[simp] theorem tick_fq : (tick s d).fq = s.fq := by simp [tick]
@[simp] theorem tick_ctag : (tick s d).ctag = s.ctag := by simp [tick]
@[simp] theorem tick_icPages : (tick s d).icPages = s.icPages := by simp [tick]
@[simp] theorem tick_icWords : (tick s d).icWords = s.icWords := by simp [tick]
@[simp] theorem tick_linkAdrs : (tick s d).linkAdrs = s.linkAdrs := by simp [tick]
@[simp] theorem tick_linkMask : (tick s d).linkMask = s.linkMask := by simp [tick]
@[simp] theorem tick_holdX : (tick s d).holdX = s.holdX := by simp [tick]
@[simp] theorem tick_holdY : (tick s d).holdY = s.holdY := by simp [tick]
@[simp] theorem tick_wbuf : (tick s d).wbuf = s.wbuf := by simp [tick]
@[simp] theorem tick_lsu : (tick s d).lsu = s.lsu := by simp [tick]
@[simp] theorem tick_cssq : (tick s d).cssq = s.cssq := by simp [tick]
@[simp] theorem tick_q1 : (tick s d).q1 = s.q1 := by simp [tick]
@[simp] theorem tick_q2 : (tick s d).q2 = s.q2 := by simp [tick]
@[simp] theorem tick_residue : (tick s d).residue = s.residue := by simp [tick]
@[simp] theorem tick_rxbusy : (tick s d).rxbusy = s.rxbusy := by simp [tick]
@[simp] theorem tick_rxfull : (tick s d).rxfull = s.rxfull := by simp [tick]
@[simp] theorem tick_txbusy : (tick s d).txbusy = s.txbusy := by simp [tick]
@[simp] theorem tick_txfull : (tick s d).txfull = s.txfull := by simp [tick]
@[simp] theorem tick_rxIdx : (tick s d).rxIdx = s.rxIdx := by simp [tick]
@[simp] theorem tick_txIdx : (tick s d).txIdx = s.txIdx := by simp [tick]
@[simp] theorem tick_rxCell : (tick s d).rxCell = s.rxCell := by simp [tick]
@[simp] theorem tick_txCell : (tick s d).txCell = s.txCell := by simp [tick]
@[simp] theorem tick_dma2Count : (tick s d).dma2Count = s.dma2Count := by simp [tick]
@[simp] theorem tick_hecA : (tick s d).hecA = s.hecA := by simp [tick]
@[simp] theorem tick_hecB : (tick s d).hecB = s.hecB := by simp [tick]
@[simp] theorem tick_hecPhase : (tick s d).hecPhase = s.hecPhase := by simp [tick]
@[simp] theorem tick_fm : (tick s d).fm = s.fm := by simp [tick]
@[simp] theorem tick_cb : (tick s d).cb = s.cb := by simp [tick]
@[simp] theorem tick_sb : (tick s d).sb = s.sb := by simp [tick]
@[simp] theorem tick_p1 : (tick s d).p1 = s.p1 := by simp [tick]
@[simp] theorem tick_p2b : (tick s d).p2b = s.p2b := by simp [tick]
@[simp] theorem tick_p2n : (tick s d).p2n = s.p2n := by simp [tick]
@[simp] theorem tick_icsi : (tick s d).icsi = s.icsi := by simp [tick]
@[simp] theorem tick_icsiPrev : (tick s d).icsiPrev = s.icsiPrev := by simp [tick]
@[simp] theorem tick_pitEdges0 : (tick s d).pitEdges0 = s.pitEdges0 := by simp [tick]
@[simp] theorem tick_pitEdges1 : (tick s d).pitEdges1 = s.pitEdges1 := by simp [tick]
@[simp] theorem tick_sent : (tick s d).sent = s.sent := by simp [tick]
@[simp] theorem tick_stuck : (tick s d).stuck = s.stuck := by simp [tick]
@[simp] theorem tick_agenda : (tick s d).agenda = s.agenda := by simp [tick]
@[simp] theorem tick_regs : (tick s d).regs = (ripen s s.plus).regs := rfl
@[simp] theorem tick_recs : (tick s d).recs = s.recs.filterMap (ageRec d.hwLoad) := rfl
@[simp] theorem tick_fmJobs : (tick s d).fmJobs = s.fmJobs.map (ageJob d.acc) := rfl
@[simp] theorem tick_plus :
    (tick s d).plus = (s.plus.filter fun p => p.age = 0).map fun p => { p with age := 1 } := rfl
@[simp] theorem tick_popcShadow : (tick s d).popcShadow = none := rfl
@[simp] theorem tick_segBranch :
    (tick s d).segBranch = (s.segBranch && s.ctag == .bslot) := rfl
@[simp] theorem tick_turn : (tick s d).turn = .helpers := rfl
@[simp] theorem tick_draws : (tick s d).draws = s.draws + 1 := rfl
end

/-! ### What the updates set -/

section
variable (s : State)
@[simp] theorem setReg_regs (r : Reg) (v : Half) : (setReg s r v).regs = s.regs.set r v := rfl
@[simp] theorem setRec_regs (r : Reg) (v : Half) : (setRec s r v).regs = s.regs.set r v := rfl
@[simp] theorem waiting_turn : (waiting s).turn = .helpers := rfl
@[simp] theorem waiting_draws : (waiting s).draws = s.draws + 1 := rfl
@[simp] theorem postWrite_wbuf (a : Nat) (v : Half) :
    (postWrite s a v).wbuf = s.wbuf ++ [(a, v)] := by unfold postWrite; simp
@[simp] theorem advance_nil_pc : (advance s []).pc = s.pc + 1 := rfl
@[simp] theorem advance_nil_ctag : (advance s []).ctag = .seq := rfl
@[simp] theorem advance_nil_fq : (advance s []).fq = [] := rfl
@[simp] theorem advance_cons_pc (a : BitVec 17) (t : FlowTag) (q : List (BitVec 17 × FlowTag)) :
    (advance s ((a, t) :: q)).pc = a := rfl
@[simp] theorem advance_cons_ctag (a : BitVec 17) (t : FlowTag) (q : List (BitVec 17 × FlowTag)) :
    (advance s ((a, t) :: q)).ctag = t := rfl
@[simp] theorem advance_cons_fq (a : BitVec 17) (t : FlowTag) (q : List (BitVec 17 × FlowTag)) :
    (advance s ((a, t) :: q)).fq = q := rfl
end

end Sys2Proof.Machine
end

