-- ==== Sys2Proof/Laws/Ops.lean ====
section
/-!
SUPPORT. What each shared operation can do, said once: the checks, the completion of an instruction,
the write side of the registers, and the runs of the instruction families.
-/
namespace Sys2Proof.Machine

/-! ### Checks -/

theorem raiseIf_ok {c : Bool} {f : Fault} : raiseIf c f = .ok () ↔ c = false := by
  cases c <;> simp [raiseIf]

theorem stallIf_ok {c : Bool} : stallIf c = .ok () ↔ c = false := by cases c <;> simp [stallIf]

/-- A sequence of checks succeeds when each does. -/
theorem bind_ok {α β : Type} {x : Check α} {k : α → Check β} {b : β} :
    (x >>= k) = .ok b ↔ ∃ a, x = .ok a ∧ k a = .ok b := by
  cases x with
  | error e => simp [bind, Except.bind]
  | ok a => simp [bind, Except.bind]

/-- The same for a check followed by another. -/
theorem seq_ok {β : Type} {x : Check Unit} {k : Check β} {b : β} :
    (do x; k) = .ok b ↔ x = .ok () ∧ k = .ok b := by
  rw [bind_ok]
  exact ⟨fun ⟨_, h⟩ => h, fun h => ⟨(), h⟩⟩

/-- Checking a list succeeds when every member does. -/
theorem forM_ok {α : Type} {l : List α} {k : α → Check Unit} :
    l.forM k = .ok () ↔ ∀ a ∈ l, k a = .ok () := by
  induction l with
  | nil => simp [pure, Except.pure]
  | cons a l ih =>
    refine (seq_ok (x := k a) (k := l.forM k)).trans ?_
    simp [← ih]

/-! ### Completing -/

/-- What an instruction can answer: the state its meaning gives, a wait, or a stuck SWAN. -/
theorem complete_next {s t : State} {r : Check State} :
    complete s r = .next t ↔
      r = .ok t ∨ (r = .error .stall ∧ t = waiting s) ∨
        (r = .error .stuck ∧ t = { waiting s with stuck := true }) := by
  unfold complete
  split <;> simp_all [eq_comm]

theorem complete_ok {s t : State} {r : Check State} (h : r = .ok t) : complete s r = .next t := by
  rw [h]; rfl

/-- An instruction never answers a refusal. -/
theorem complete_not_refused {s : State} {r : Check State} {x : Refusal} :
    complete s r ≠ .refused x := by
  unfold complete
  split <;> simp

/-! ### The write side of the registers -/

/-- A register write changes no other part of the state than the fields named here. -/
theorem writeReg_eq (w s : State) (r : Reg) (v : Half) :
    writeReg w s r v = { s with
      regs := (writeReg w s r v).regs,
      mode := (writeReg w s r v).mode,
      fifo := (writeReg w s r v).fifo,
      fifoWr := (writeReg w s r v).fifoWr,
      opts := (writeReg w s r v).opts,
      coutRdy := (writeReg w s r v).coutRdy,
      coutLag := (writeReg w s r v).coutLag,
      pitInit0 := (writeReg w s r v).pitInit0,
      pitInit1 := (writeReg w s r v).pitInit1,
      acf := (writeReg w s r v).acf,
      sb := (writeReg w s r v).sb,
      hecA := (writeReg w s r v).hecA,
      hecB := (writeReg w s r v).hecB,
      hecPhase := (writeReg w s r v).hecPhase,
      recs := (writeReg w s r v).recs,
      rxIdx := (writeReg w s r v).rxIdx,
      rxbusy := (writeReg w s r v).rxbusy,
      rxfull := (writeReg w s r v).rxfull,
      txIdx := (writeReg w s r v).txIdx,
      txbusy := (writeReg w s r v).txbusy,
      txfull := (writeReg w s r v).txfull } := by
  unfold writeReg
  split
  all_goals first
    | rfl
    | (split <;> rfl)
    | (unfold writeFifo; dsimp only; split <;> rfl)
    | (unfold writeFmData; split <;> rfl)
    | (unfold writeEvent; dsimp only; split <;> rfl)
    | (unfold writeCss cssReset; dsimp only; split <;> rfl)

section
variable (w s : State) (r : Reg) (v : Half)
@[simp] theorem writeReg_cfg : (writeReg w s r v).cfg = s.cfg := by
  rw [writeReg_eq]
@[simp] theorem writeReg_fifoRd : (writeReg w s r v).fifoRd = s.fifoRd := by
  rw [writeReg_eq]
@[simp] theorem writeReg_cinBusy : (writeReg w s r v).cinBusy = s.cinBusy := by
  rw [writeReg_eq]
@[simp] theorem writeReg_cinLag : (writeReg w s r v).cinLag = s.cinLag := by
  rw [writeReg_eq]
@[simp] theorem writeReg_ovf : (writeReg w s r v).ovf = s.ovf := by
  rw [writeReg_eq]
@[simp] theorem writeReg_cmpState : (writeReg w s r v).cmpState = s.cmpState := by
  rw [writeReg_eq]
@[simp] theorem writeReg_pc : (writeReg w s r v).pc = s.pc := by
  rw [writeReg_eq]
@[simp] theorem writeReg_fq : (writeReg w s r v).fq = s.fq := by
  rw [writeReg_eq]
@[simp] theorem writeReg_ctag : (writeReg w s r v).ctag = s.ctag := by
  rw [writeReg_eq]
@[simp] theorem writeReg_icPages : (writeReg w s r v).icPages = s.icPages := by
  rw [writeReg_eq]
@[simp] theorem writeReg_icWords : (writeReg w s r v).icWords = s.icWords := by
  rw [writeReg_eq]
@[simp] theorem writeReg_linkAdrs : (writeReg w s r v).linkAdrs = s.linkAdrs := by
  rw [writeReg_eq]
@[simp] theorem writeReg_linkMask : (writeReg w s r v).linkMask = s.linkMask := by
  rw [writeReg_eq]
@[simp] theorem writeReg_holdX : (writeReg w s r v).holdX = s.holdX := by
  rw [writeReg_eq]
@[simp] theorem writeReg_holdY : (writeReg w s r v).holdY = s.holdY := by
  rw [writeReg_eq]
@[simp] theorem writeReg_wbuf : (writeReg w s r v).wbuf = s.wbuf := by
  rw [writeReg_eq]
@[simp] theorem writeReg_fmJobs : (writeReg w s r v).fmJobs = s.fmJobs := by
  rw [writeReg_eq]
@[simp] theorem writeReg_lsu : (writeReg w s r v).lsu = s.lsu := by
  rw [writeReg_eq]
@[simp] theorem writeReg_cssq : (writeReg w s r v).cssq = s.cssq := by
  rw [writeReg_eq]
@[simp] theorem writeReg_q1 : (writeReg w s r v).q1 = s.q1 := by
  rw [writeReg_eq]
@[simp] theorem writeReg_q2 : (writeReg w s r v).q2 = s.q2 := by
  rw [writeReg_eq]
@[simp] theorem writeReg_residue : (writeReg w s r v).residue = s.residue := by
  rw [writeReg_eq]
@[simp] theorem writeReg_rxCell : (writeReg w s r v).rxCell = s.rxCell := by
  rw [writeReg_eq]
@[simp] theorem writeReg_txCell : (writeReg w s r v).txCell = s.txCell := by
  rw [writeReg_eq]
@[simp] theorem writeReg_dma2Count : (writeReg w s r v).dma2Count = s.dma2Count := by
  rw [writeReg_eq]
@[simp] theorem writeReg_plus : (writeReg w s r v).plus = s.plus := by
  rw [writeReg_eq]
@[simp] theorem writeReg_rlaPrev : (writeReg w s r v).rlaPrev = s.rlaPrev := by
  rw [writeReg_eq]
@[simp] theorem writeReg_rlaTrap : (writeReg w s r v).rlaTrap = s.rlaTrap := by
  rw [writeReg_eq]
@[simp] theorem writeReg_popcShadow : (writeReg w s r v).popcShadow = s.popcShadow := by
  rw [writeReg_eq]
@[simp] theorem writeReg_segBranch : (writeReg w s r v).segBranch = s.segBranch := by
  rw [writeReg_eq]
@[simp] theorem writeReg_popfAge : (writeReg w s r v).popfAge = s.popfAge := by
  rw [writeReg_eq]
@[simp] theorem writeReg_dmaLag : (writeReg w s r v).dmaLag = s.dmaLag := by
  rw [writeReg_eq]
@[simp] theorem writeReg_fm : (writeReg w s r v).fm = s.fm := by
  rw [writeReg_eq]
@[simp] theorem writeReg_cb : (writeReg w s r v).cb = s.cb := by
  rw [writeReg_eq]
@[simp] theorem writeReg_p1 : (writeReg w s r v).p1 = s.p1 := by
  rw [writeReg_eq]
@[simp] theorem writeReg_p2b : (writeReg w s r v).p2b = s.p2b := by
  rw [writeReg_eq]
@[simp] theorem writeReg_p2n : (writeReg w s r v).p2n = s.p2n := by
  rw [writeReg_eq]
@[simp] theorem writeReg_icsi : (writeReg w s r v).icsi = s.icsi := by
  rw [writeReg_eq]
@[simp] theorem writeReg_icsiPrev : (writeReg w s r v).icsiPrev = s.icsiPrev := by
  rw [writeReg_eq]
@[simp] theorem writeReg_pitEdges0 : (writeReg w s r v).pitEdges0 = s.pitEdges0 := by
  rw [writeReg_eq]
@[simp] theorem writeReg_pitEdges1 : (writeReg w s r v).pitEdges1 = s.pitEdges1 := by
  rw [writeReg_eq]
@[simp] theorem writeReg_sent : (writeReg w s r v).sent = s.sent := by
  rw [writeReg_eq]
@[simp] theorem writeReg_stuck : (writeReg w s r v).stuck = s.stuck := by
  rw [writeReg_eq]
@[simp] theorem writeReg_agenda : (writeReg w s r v).agenda = s.agenda := by
  rw [writeReg_eq]
@[simp] theorem writeReg_turn : (writeReg w s r v).turn = s.turn := by
  rw [writeReg_eq]
@[simp] theorem writeReg_draws : (writeReg w s r v).draws = s.draws := by
  rw [writeReg_eq]

/-- A register write leaves the Scoreboard alone, or empties it (the CSS reset, 43 R299). -/
theorem writeReg_sb : (writeReg w s r v).sb = s.sb ∨ (writeReg w s r v).sb = [] := by
  unfold writeReg
  split
  all_goals first
    | exact .inl rfl
    | (split <;> exact .inl rfl)
    | (unfold writeFifo; dsimp only; split <;> exact .inl rfl)
    | (unfold writeFmData; split <;> exact .inl rfl)
    | (unfold writeEvent; dsimp only; split <;> exact .inl rfl)
    | (unfold writeCss cssReset; dsimp only; split <;> first | exact .inl rfl | exact .inr rfl)
end

/-! ### Runs -/

/-- An ALU instruction answers its next state, or waits, or leaves the SWAN stuck. -/
theorem runAlu_next {s t : State} {o : AluOp} (h : runAlu s o = .next t) :
    (aluCheck s o = .ok () ∧ t = aluNext s o) ∨ t = waiting s ∨
      t = { waiting s with stuck := true } := by
  rcases complete_next.1 h with h | h | h
  · obtain ⟨h1, h2⟩ := seq_ok.1 h
    exact .inl ⟨h1, by simpa [pure, Except.pure] using h2.symm⟩
  · exact .inr (.inl h.2)
  · exact .inr (.inr h.2)

/-- An ALU instruction whose checks succeed completes. -/
theorem runAlu_ok {s : State} {o : AluOp} (h : aluCheck s o = .ok ()) :
    runAlu s o = .next (aluNext s o) := complete_ok (seq_ok.2 ⟨h, rfl⟩)

/-- A Branch instruction answers its next state, or waits, or leaves the SWAN stuck. -/
theorem runBranch_next {s t : State} {link : Bool} {x : Target} {e : Fin 16} {sense c : Bool} {cso : Cso}
    (h : runBranch s link x e sense c cso = .next t) :
    (branchCheck s link x e sense c cso = .ok () ∧ t = branchNext s link x e sense c cso) ∨ t = waiting s ∨
      t = { waiting s with stuck := true } := by
  rcases complete_next.1 h with h | h | h
  · obtain ⟨h1, h2⟩ := seq_ok.1 h
    exact .inl ⟨h1, by simpa [pure, Except.pure] using h2.symm⟩
  · exact .inr (.inl h.2)
  · exact .inr (.inr h.2)

/-- A Branch instruction whose checks succeed completes. -/
theorem runBranch_ok {s : State} {link : Bool} {x : Target} {e : Fin 16} {sense c : Bool} {cso : Cso}
    (h : branchCheck s link x e sense c cso = .ok ()) : runBranch s link x e sense c cso = .next (branchNext s link x e sense c cso) :=
  complete_ok (seq_ok.2 ⟨h, rfl⟩)

/-- A Cell Scheduling instruction answers its next state, or waits, or leaves the SWAN stuck. -/
theorem runCss_next {s t : State} {o : CssIssue}
    (h : runCss s o = .next t) :
    (cssCheck s o = .ok () ∧ t = cssNext s o) ∨ t = waiting s ∨
      t = { waiting s with stuck := true } := by
  rcases complete_next.1 h with h | h | h
  · obtain ⟨h1, h2⟩ := seq_ok.1 h
    exact .inl ⟨h1, by simpa [pure, Except.pure] using h2.symm⟩
  · exact .inr (.inl h.2)
  · exact .inr (.inr h.2)

/-- A Cell Scheduling instruction whose checks succeed completes. -/
theorem runCss_ok {s : State} {o : CssIssue}
    (h : cssCheck s o = .ok ()) : runCss s o = .next (cssNext s o) :=
  complete_ok (seq_ok.2 ⟨h, rfl⟩)

/-- A DMA instruction answers its next state, or waits, or leaves the SWAN stuck. -/
theorem runDma_next {s t : State} {o : DmaOp}
    (h : runDma s o = .next t) :
    (dmaCheck s o = .ok () ∧ t = dmaNext s o) ∨ t = waiting s ∨
      t = { waiting s with stuck := true } := by
  rcases complete_next.1 h with h | h | h
  · obtain ⟨h1, h2⟩ := seq_ok.1 h
    exact .inl ⟨h1, by simpa [pure, Except.pure] using h2.symm⟩
  · exact .inr (.inl h.2)
  · exact .inr (.inr h.2)

/-- A DMA instruction whose checks succeed completes. -/
theorem runDma_ok {s : State} {o : DmaOp}
    (h : dmaCheck s o = .ok ()) : runDma s o = .next (dmaNext s o) :=
  complete_ok (seq_ok.2 ⟨h, rfl⟩)

/-- A halfword store to Fast Memory answers its next state, or waits, or leaves the SWAN stuck. -/
theorem runFmStore_next {s t : State} {hold : CrcSel} {regs : List Reg} {src : Reg}
    {a : BitVec 20} (h : runFmStore s hold regs src a = .next t) :
    (fmStoreCheck s hold regs src a = .ok () ∧ t = fmStoreNext s regs src a) ∨ t = waiting s ∨
      t = { waiting s with stuck := true } := by
  rcases complete_next.1 h with h | h | h
  · obtain ⟨h1, h2⟩ := seq_ok.1 h
    exact .inl ⟨h1, by simpa [pure, Except.pure] using h2.symm⟩
  · exact .inr (.inl h.2)
  · exact .inr (.inr h.2)

/-- A halfword store to Fast Memory whose checks succeed completes. -/
theorem runFmStore_ok {s : State} {hold : CrcSel} {regs : List Reg} {src : Reg} {a : BitVec 20}
    (h : fmStoreCheck s hold regs src a = .ok ()) :
    runFmStore s hold regs src a = .next (fmStoreNext s regs src a) :=
  complete_ok (seq_ok.2 ⟨h, rfl⟩)

end Sys2Proof.Machine
end

