-- ==== Sys2Proof/Laws/Exec.lean ====
section
/-!
SUPPORT. What an instruction can answer, said once for all instructions.
-/
namespace Sys2Proof.Machine

/-- The next states an instruction can answer: a wait, a stuck SWAN, or the state of its family with
the family's checks passed. -/
inductive ExecForm (s t : State) : Prop where
  | waits (e : t = waiting s)
  | sticks (e : t = { waiting s with stuck := true })
  | alu (o : AluOp) (h : aluCheck s o = .ok ()) (e : t = aluNext s o)
  | branch (link : Bool) (x : Target) (ess : Fin 16) (sense c : Bool) (cso : Cso)
      (h : branchCheck s link x ess sense c cso = .ok ())
      (e : t = branchNext s link x ess sense c cso)
  | css (o : CssIssue) (h : cssCheck s o = .ok ()) (e : t = cssNext s o)
  | dma (o : DmaOp) (h : dmaCheck s o = .ok ()) (e : t = dmaNext s o)
  | fmStore (hold : CrcSel) (regs : List Reg) (src : Reg) (a : BitVec 20)
      (h : fmStoreCheck s hold regs src a = .ok ()) (e : t = fmStoreNext s regs src a)
  | lmfm (o : LmfmOp) (h : lmfmCheck s o = .ok ()) (e : t = lmfmNext s o)
  | load (d : Done) (srcs : List Reg) (o : LsuOp)
      (ho : (∃ x rd w, o = .load1 x rd w) ∨ ∃ x ra rb w, o = .load2 x ra rb w false)
      (e : t = lsuNext s d srcs o)
  | store (d : Done) (srcs : List Reg) (o : LsuOp) (h : holdsStore s = false)
      (ho : (∃ x v, o = .store1 x v) ∨ ∃ x v w, o = .store2 x v w false)
      (e : t = lsuNext s d srcs o)

theorem pure_ok {α : Type} {a b : α} (h : (pure a : Check α) = .ok b) : b = a :=
  (Except.ok.inj h).symm

theorem ExecForm.of_alu {s t : State} {o : AluOp} (h : runAlu s o = .next t) : ExecForm s t := by
  rcases runAlu_next h with ⟨h, e⟩ | e | e
  · exact .alu o h e
  · exact .waits e
  · exact .sticks e

theorem ExecForm.of_branch {s t : State} {link : Bool} {x : Target} {ess : Fin 16} {sense c : Bool}
    {cso : Cso} (h : runBranch s link x ess sense c cso = .next t) : ExecForm s t := by
  rcases runBranch_next h with ⟨h, e⟩ | e | e
  · exact .branch link x ess sense c cso h e
  · exact .waits e
  · exact .sticks e

theorem ExecForm.of_css {s t : State} {o : CssIssue} (h : runCss s o = .next t) :
    ExecForm s t := by
  rcases runCss_next h with ⟨h, e⟩ | e | e
  · exact .css o h e
  · exact .waits e
  · exact .sticks e

theorem ExecForm.of_dma {s t : State} {o : DmaOp} (h : runDma s o = .next t) : ExecForm s t := by
  rcases runDma_next h with ⟨h, e⟩ | e | e
  · exact .dma o h e
  · exact .waits e
  · exact .sticks e

theorem ExecForm.of_fmStore {s t : State} {hold : CrcSel} {regs : List Reg} {src : Reg}
    {a : BitVec 20} (h : runFmStore s hold regs src a = .next t) : ExecForm s t := by
  rcases runFmStore_next h with ⟨h, e⟩ | e | e
  · exact .fmStore hold regs src a h e
  · exact .waits e
  · exact .sticks e

theorem ExecForm.of_complete {s t : State} {r : Check State} (h : complete s r = .next t)
    (hr : r = .ok t → ExecForm s t) : ExecForm s t := by
  rcases complete_next.1 h with h | h | h
  · exact hr h
  · exact .waits h.2
  · exact .sticks h.2

theorem execLmfm_form {rd : Reg} {lnk z : Bool} {rsa : Reg} {hw : BitVec 5} {rsb : SReg}
    {s t : State} (h : execLmfm rd lnk z rsa hw rsb s = .next t) : ExecForm s t :=
  .of_complete h fun e => by
    obtain ⟨h, e⟩ := seq_ok.1 e
    exact .lmfm _ h (pure_ok e)

theorem execLd_form {rd : Reg} {x : Rla} {swap : BitVec 2} {idx : BitVec 5} {s t : State}
    (h : execLd rd x swap idx s = .next t) : ExecForm s t :=
  .of_complete h fun e => by
    obtain ⟨_, e⟩ := seq_ok.1 e
    obtain ⟨_, e⟩ := seq_ok.1 e
    exact .load _ _ _ (.inl ⟨_, _, _, rfl⟩) (pure_ok e)

theorem execLdd_form {rd : Reg} {x : Rla} {swap : BitVec 2} {idx : BitVec 5} {s t : State}
    (h : execLdd rd x swap idx s = .next t) : ExecForm s t :=
  .of_complete h fun e => by
    obtain ⟨_, e⟩ := seq_ok.1 e
    obtain ⟨_, e⟩ := seq_ok.1 e
    exact .load _ _ _ (.inr ⟨_, _, _, _, rfl⟩) (pure_ok e)

theorem execSt_form {swap : BitVec 2} {x : Rla} {rsa : Reg} {idx : BitVec 5} {s t : State}
    (h : execSt swap x rsa idx s = .next t) : ExecForm s t :=
  .of_complete h fun e => by
    obtain ⟨_, e⟩ := seq_ok.1 e
    obtain ⟨_, e⟩ := seq_ok.1 e
    obtain ⟨_, e⟩ := seq_ok.1 e
    obtain ⟨_, e⟩ := seq_ok.1 e
    obtain ⟨_, e⟩ := seq_ok.1 e
    obtain ⟨_, e⟩ := seq_ok.1 e
    obtain ⟨h, e⟩ := seq_ok.1 e
    exact .store _ _ _ (stallIf_ok.1 h) (.inl ⟨_, _, rfl⟩) (pure_ok e)

theorem execStd_form {swap : BitVec 2} {x : Rla} {rsa : Reg} {idx : BitVec 5} {rsb : SReg}
    {s t : State} (h : execStd swap x rsa idx rsb s = .next t) : ExecForm s t :=
  .of_complete h fun e => by
    obtain ⟨_, e⟩ := seq_ok.1 e
    obtain ⟨_, e⟩ := seq_ok.1 e
    obtain ⟨_, e⟩ := seq_ok.1 e
    obtain ⟨_, e⟩ := seq_ok.1 e
    obtain ⟨_, e⟩ := seq_ok.1 e
    obtain ⟨h, e⟩ := seq_ok.1 e
    exact .store _ _ _ (stallIf_ok.1 h) (.inr ⟨_, _, _, rfl⟩) (pure_ok e)

/-- Every next state an instruction answers is of one of the forms of its family. -/
theorem exec_form {i : Instr} {s t : State} (h : exec i s = .next t) : ExecForm s t := by
  cases i with
  | bi => exact .of_branch h
  | bil => exact .of_branch h
  | br => exact .of_branch h
  | brl => exact .of_branch h
  | bf => exact .of_branch h
  | bfl => exact .of_branch h
  | popc => exact .of_css h
  | popf => exact .of_css h
  | pushc => exact .of_css h
  | pushf => exact .of_css h
  | dma1r => exact .of_dma h
  | dma1w => exact .of_dma h
  | dma2r => exact .of_dma h
  | dma2w => exact .of_dma h
  | dma1rPlus => exact .of_dma h
  | dma1wPlus => exact .of_dma h
  | dma2rPlus => exact .of_dma h
  | dma2wPlus => exact .of_dma h
  | shfm => exact .of_fmStore h
  | srh => exact .of_fmStore h
  | lmfm => exact execLmfm_form h
  | ld => exact execLd_form h
  | ldd => exact execLdd_form h
  | st => exact execSt_form h
  | std => exact execStd_form h
  | _ => exact .of_alu h

/-! ### Keeping a property through a step -/

/-- An attempted move changes the state as the move does, or not at all. -/
theorem attempt_ok {s t : State} {m : Move} (h : attempt s m = .ok t) :
    perform s m = .ok t ∨ t = s := by
  unfold attempt at h
  split at h
  · rename_i u hu
    exact .inl (hu.trans h)
  · exact .inr (Except.ok.inj h).symm
  · cases h

theorem foldl_attempt_keeps {P : State → Prop}
    (hm : ∀ m s t, P s → perform s m = .ok t → P t) :
    ∀ (l : List Move) (s t : State), P s → l.foldlM attempt s = .ok t → P t
  | [], s, t, h, e => by
    have : s = t := Except.ok.inj e
    exact this ▸ h
  | m :: l, s, t, h, e => by
    obtain ⟨u, hu, e⟩ := bind_ok.1 e
    refine foldl_attempt_keeps hm l u t ?_ e
    rcases attempt_ok hu with hu | rfl
    · exact hm m s u h hu
    · exact h

/-- A property that the fetch, every instruction and every agent keep, and that does not look at the
scheduling fields, is kept by every step. -/
theorem step_keeps {P : State → Prop} (hf : ∀ s, P s → P (fetched s))
    (he : ∀ i s t, P s → exec i s = .next t → P t)
    (hm : ∀ m s t, P s → perform s m = .ok t → P t)
    (hs : ∀ (s : State) (a : List Move) (u : Turn) (k : Bool) (d : Nat), P s →
      P { s with agenda := a, turn := u, stuck := k, draws := d })
    {s t : State} (h : P s) (e : step s = .next t) : P t := by
  have hc : ∀ (s t : State) (r : Check State), P s → (∀ u, r = .ok u → P u) →
      complete s r = .next t → P t := by
    intro s t r h hr e
    rcases complete_next.1 e with e | ⟨_, rfl⟩ | ⟨_, rfl⟩
    · exact hr t e
    · exact hs s s.agenda .helpers s.stuck (s.draws + 1) h
    · exact hs s s.agenda .helpers true (s.draws + 1) h
  have hw : ∀ s t, P s → swanTurn s = .next t → P t := by
    intro s t h e
    unfold swanTurn at e
    split at e
    · cases e
      exact hs s s.agenda .helpers s.stuck s.draws h
    · unfold swanStep at e
      split at e
      · exact he _ _ t (hf s h) e
      · exact hc s t _ h (fun u hu => by cases hu) e
  have ha : ∀ s u m, P s → attempt s m = .ok u → P u := by
    intro s u m h hu
    rcases attempt_ok hu with hu | rfl
    · exact hm m s u h hu
    · exact h
  unfold step at e
  split at e
  · exact hw _ t (hs s _ s.turn s.stuck s.draws h) e
  · exact hc _ t _ (hs s _ s.turn s.stuck s.draws h)
      (fun u hu => ha _ u _ (hs s _ s.turn s.stuck s.draws h) hu) e
  · split at e
    · exact hw s t h e
    · refine hc s t _ h (fun u hu => ?_) e
      obtain ⟨v, hv, hu⟩ := bind_ok.1 hu
      cases hu
      exact hs v v.agenda .swan v.stuck (v.draws + 1) (foldl_attempt_keeps hm _ s v h hv)

end Sys2Proof.Machine
end

