-- ==== Sys2Proof/Laws/PerInstr.lean ====
section
/-!
SUPPORT. One lemma per instruction: its encoding fits an instruction word, so that `encode` drops no
bit.
-/
namespace Sys2Proof.Laws.EncodeFits

/-- The encoding of `i` is below 2^32 (30_encoding R140). -/
def Statement (i : Instr) : Prop := encodeNat i < 2 ^ 32

theorem abcCode_le (a : Abc) : abcCode a ≤ 7 := by cases a <;> decide
theorem rlaCode_le (x : Rla) : rlaCode x ≤ 7 := by cases x <;> decide
theorem csoCode_le (c : Cso) : csoCode c ≤ 255 := by cases c <;> decide
theorem bitN_le (b : Bool) (k : Nat) : bitN b k ≤ 2 ^ k := by cases b <;> simp [bitN]

theorem plus_le (b : BitVec 7) : 128 + b.toNat ≤ 255 := by have := b.isLt; omega

theorem aluHead_le (op : Nat) (rd : Reg) (um : Bool) (abc : Nat) (rsa : Reg) (hop : op ≤ 63)
    (habc : abc ≤ 7) : aluHead op rd um abc rsa + 1024 ≤ 2 ^ 32 := by
  have := bitN_le um 19
  simp only [aluHead]
  omega

theorem encAlu3_lt (op : Nat) (rd : Reg) (um : Bool) (abc : Nat) (rsa : Reg) (modx : BitVec 4)
    (ae : Bool) (rsb : SReg) (hop : op ≤ 63) (habc : abc ≤ 7) :
    encAlu3 op rd um abc rsa modx ae rsb < 2 ^ 32 := by
  have := aluHead_le op rd um abc rsa hop habc
  have := bitN_le ae 5
  have := modx.isLt
  simp only [encAlu3]
  omega

theorem encAluI10_lt (op : Nat) (rd : Reg) (um : Bool) (abc : Nat) (rsa : Reg) (si : BitVec 10)
    (hop : op ≤ 63) (habc : abc ≤ 7) : encAluI10 op rd um abc rsa si < 2 ^ 32 := by
  have := aluHead_le op rd um abc rsa hop habc
  have := si.isLt
  simp only [encAluI10]
  omega

theorem encSftI_lt (op : Nat) (rd : Reg) (um : Bool) (abc : Nat) (rsa : Reg) (modx : BitVec 4)
    (ae top : Bool) (amt : BitVec 4) (hop : op ≤ 63) (habc : abc ≤ 7) :
    encSftI op rd um abc rsa modx ae top amt < 2 ^ 32 := by
  have := aluHead_le op rd um abc rsa hop habc
  have := bitN_le ae 5
  have := bitN_le top 4
  have := modx.isLt
  have := amt.isLt
  simp only [encSftI]
  omega

theorem encBranch_lt (op : Nat) (ess : Fin 16) (sense c : Bool) (cso : Cso) (wadr : Nat)
    (hop : op ≤ 62) (hw : wadr < 4096) : encBranch op ess sense c cso wadr < 2 ^ 32 := by
  have := bitN_le sense 21
  have := bitN_le c 20
  have := csoCode_le cso
  simp only [encBranch]
  omega

theorem encDma_lt (op bc : Nat) (rla : Rla) (rsa : Reg) (ibi crcx crcy pod st : Bool) (rsb : SReg)
    (hop : op ≤ 30) (hbc : bc ≤ 255) : encDma op bc rla rsa ibi crcx crcy pod st rsb < 2 ^ 32 := by
  have := rlaCode_le rla
  have := bitN_le ibi 9
  have := bitN_le crcx 8
  have := bitN_le crcy 7
  have := bitN_le pod 6
  have := bitN_le st 5
  simp only [encDma]
  omega

theorem add (rd : Reg) (um : Bool) (abc : Abc) (rsa : Reg) (modx : BitVec 4) (ae : Bool) (rsb : SReg) :
    Statement (.add rd um abc rsa modx ae rsb) :=
  encAlu3_lt _ _ _ _ _ _ _ _ (by decide) (abcCode_le _)

theorem sub (rd : Reg) (um : Bool) (abc : Abc) (rsa : Reg) (modx : BitVec 4) (ae : Bool) (rsb : SReg) :
    Statement (.sub rd um abc rsa modx ae rsb) :=
  encAlu3_lt _ _ _ _ _ _ _ _ (by decide) (abcCode_le _)

theorem and (rd : Reg) (um : Bool) (abc : Abc) (rsa : Reg) (modx : BitVec 4) (ae : Bool) (rsb : SReg) :
    Statement (.and rd um abc rsa modx ae rsb) :=
  encAlu3_lt _ _ _ _ _ _ _ _ (by decide) (abcCode_le _)

theorem or (rd : Reg) (um : Bool) (abc : Abc) (rsa : Reg) (modx : BitVec 4) (ae : Bool) (rsb : SReg) :
    Statement (.or rd um abc rsa modx ae rsb) :=
  encAlu3_lt _ _ _ _ _ _ _ _ (by decide) (abcCode_le _)

theorem xor (rd : Reg) (um : Bool) (abc : Abc) (rsa : Reg) (modx : BitVec 4) (ae : Bool) (rsb : SReg) :
    Statement (.xor rd um abc rsa modx ae rsb) :=
  encAlu3_lt _ _ _ _ _ _ _ _ (by decide) (abcCode_le _)

theorem max (rd : Reg) (um : Bool) (cc : BitVec 3) (rsa : Reg) (modx : BitVec 4) (ae : Bool) (rsb : SReg) :
    Statement (.max rd um cc rsa modx ae rsb) :=
  encAlu3_lt _ _ _ _ _ _ _ _ (by decide) (Nat.le_of_lt_succ (BitVec.isLt _))

theorem min (rd : Reg) (um : Bool) (cc : BitVec 3) (rsa : Reg) (modx : BitVec 4) (ae : Bool) (rsb : SReg) :
    Statement (.min rd um cc rsa modx ae rsb) :=
  encAlu3_lt _ _ _ _ _ _ _ _ (by decide) (Nat.le_of_lt_succ (BitVec.isLt _))

theorem addi (rd : Reg) (um : Bool) (abc : Abc) (rsa : Reg) (modx : BitVec 4) (usi : BitVec 6) :
    Statement (.addi rd um abc rsa modx usi) := by
  simp only [Statement, encodeNat, aluHead]
  have := rd.isLt
  have := bitN_le um 19
  have := abcCode_le abc
  have := rsa.isLt
  have := modx.isLt
  have := usi.isLt
  omega

theorem subi (rd : Reg) (um : Bool) (abc : Abc) (rsa : Reg) (modx : BitVec 4) (usi : BitVec 6) :
    Statement (.subi rd um abc rsa modx usi) := by
  simp only [Statement, encodeNat, aluHead]
  have := rd.isLt
  have := bitN_le um 19
  have := abcCode_le abc
  have := rsa.isLt
  have := modx.isLt
  have := usi.isLt
  omega

theorem andi (rd : Reg) (um : Bool) (abc : Abc) (rsa : Reg) (si : BitVec 10) :
    Statement (.andi rd um abc rsa si) :=
  encAluI10_lt _ _ _ _ _ _ (by decide) (abcCode_le _)

theorem ori (rd : Reg) (um : Bool) (abc : Abc) (rsa : Reg) (si : BitVec 10) :
    Statement (.ori rd um abc rsa si) :=
  encAluI10_lt _ _ _ _ _ _ (by decide) (abcCode_le _)

theorem xori (rd : Reg) (um : Bool) (abc : Abc) (rsa : Reg) (si : BitVec 10) :
    Statement (.xori rd um abc rsa si) :=
  encAluI10_lt _ _ _ _ _ _ (by decide) (abcCode_le _)

theorem maxi (rd : Reg) (um : Bool) (cc : BitVec 3) (rsa : Reg) (si : BitVec 10) :
    Statement (.maxi rd um cc rsa si) :=
  encAluI10_lt _ _ _ _ _ _ (by decide) (Nat.le_of_lt_succ (BitVec.isLt _))

theorem mini (rd : Reg) (um : Bool) (cc : BitVec 3) (rsa : Reg) (si : BitVec 10) :
    Statement (.mini rd um cc rsa si) :=
  encAluI10_lt _ _ _ _ _ _ (by decide) (Nat.le_of_lt_succ (BitVec.isLt _))

theorem cmp (cc : BitVec 3) (rsa : Reg) (ae : Bool) (rsb : SReg) :
    Statement (.cmp cc rsa ae rsb) :=
  encAlu3_lt _ _ _ _ _ _ _ _ (by decide) (Nat.le_of_lt_succ (BitVec.isLt _))

theorem cmpp (cc : BitVec 3) (rsa : Reg) (ae : Bool) (rsb : SReg) :
    Statement (.cmpp cc rsa ae rsb) :=
  encAlu3_lt _ _ _ _ _ _ _ _ (by decide) (Nat.le_of_lt_succ (BitVec.isLt _))

theorem cmpi (cc : BitVec 3) (rsa : Reg) (si : BitVec 10) :
    Statement (.cmpi cc rsa si) :=
  encAluI10_lt _ _ _ _ _ _ (by decide) (Nat.le_of_lt_succ (BitVec.isLt _))

theorem cmppi (cc : BitVec 3) (rsa : Reg) (si : BitVec 10) :
    Statement (.cmppi cc rsa si) :=
  encAluI10_lt _ _ _ _ _ _ (by decide) (Nat.le_of_lt_succ (BitVec.isLt _))

theorem fls (rd : Reg) (um : Bool) (abc : Abc) (rsa : Reg) (ae : Bool) :
    Statement (.fls rd um abc rsa ae) :=
  encAlu3_lt _ _ _ _ _ _ _ _ (by decide) (abcCode_le _)

theorem limd (rd : Reg) (um : Bool) (li : BitVec 16) :
    Statement (.limd rd um li) := by
  simp only [Statement, encodeNat]
  have := rd.isLt
  have := bitN_le um 19
  have := li.isLt
  omega

theorem sft (rd : Reg) (um : Bool) (abc : Abc) (rsa : Reg) (modx : BitVec 4) (rsb : SReg) :
    Statement (.sft rd um abc rsa modx rsb) :=
  encAlu3_lt _ _ _ _ _ _ _ _ (by decide) (abcCode_le _)

theorem sfta (rd : Reg) (um : Bool) (abc : Abc) (rsa : Reg) (modx : BitVec 4) (rsb : SReg) :
    Statement (.sfta rd um abc rsa modx rsb) :=
  encAlu3_lt _ _ _ _ _ _ _ _ (by decide) (abcCode_le _)

theorem sftc (rd : Reg) (um : Bool) (abc : Abc) (rsa : Reg) (modx : BitVec 4) (ae : Bool) (rsb : SReg) :
    Statement (.sftc rd um abc rsa modx ae rsb) :=
  encAlu3_lt _ _ _ _ _ _ _ _ (by decide) (abcCode_le _)

theorem sftai (rd : Reg) (um : Bool) (abc : Abc) (rsa : Reg) (modx : BitVec 4) (usa : BitVec 4) :
    Statement (.sftai rd um abc rsa modx usa) :=
  encSftI_lt _ _ _ _ _ _ _ _ _ (by decide) (abcCode_le _)

theorem sftci (rd : Reg) (um : Bool) (abc : Abc) (rsa : Reg) (modx : BitVec 4) (ae : Bool) (usa : BitVec 4) :
    Statement (.sftci rd um abc rsa modx ae usa) :=
  encSftI_lt _ _ _ _ _ _ _ _ _ (by decide) (abcCode_le _)

theorem sftli (rd : Reg) (um : Bool) (abc : Abc) (rsa : Reg) (modx : BitVec 4) (ae : Bool) (amt : BitVec 4) :
    Statement (.sftli rd um abc rsa modx ae amt) :=
  encSftI_lt _ _ _ _ _ _ _ _ _ (by decide) (abcCode_le _)

theorem sftri (rd : Reg) (um : Bool) (abc : Abc) (rsa : Reg) (modx : BitVec 4) (ae : Bool) (amt : BitVec 4) :
    Statement (.sftri rd um abc rsa modx ae amt) :=
  encSftI_lt _ _ _ _ _ _ _ _ _ (by decide) (abcCode_le _)

theorem bi (ess : Fin 16) (sense : Bool) (c : Bool) (cso : Cso) (wadr : BitVec 12) :
    Statement (.bi ess sense c cso wadr) :=
  encBranch_lt _ _ _ _ _ _ (by decide) (BitVec.isLt _)

theorem bil (ess : Fin 16) (sense : Bool) (c : Bool) (cso : Cso) (wadr : BitVec 12) :
    Statement (.bil ess sense c cso wadr) :=
  encBranch_lt _ _ _ _ _ _ (by decide) (BitVec.isLt _)

theorem br (ess : Fin 16) (sense : Bool) (c : Bool) (cso : Cso) :
    Statement (.br ess sense c cso) :=
  encBranch_lt _ _ _ _ _ _ (by decide) (by decide)

theorem brl (ess : Fin 16) (sense : Bool) (c : Bool) (cso : Cso) :
    Statement (.brl ess sense c cso) :=
  encBranch_lt _ _ _ _ _ _ (by decide) (by decide)

theorem bf (ess : Fin 16) (sense : Bool) (c : Bool) (cso : Cso) :
    Statement (.bf ess sense c cso) :=
  encBranch_lt _ _ _ _ _ _ (by decide) (by decide)

theorem bfl (ess : Fin 16) (sense : Bool) (c : Bool) (cso : Cso) :
    Statement (.bfl ess sense c cso) :=
  encBranch_lt _ _ _ _ _ _ (by decide) (by decide)

theorem popc (rd : Reg) (rsb : SReg) :
    Statement (.popc rd rsb) := by
  simp only [Statement, encodeNat]
  have := rd.isLt
  have := rsb.isLt
  omega

theorem popf (rd : Reg) (rsb : SReg) :
    Statement (.popf rd rsb) := by
  simp only [Statement, encodeNat]
  have := rd.isLt
  have := rsb.isLt
  omega

theorem pushc (rsa : Reg) (rsb : SReg) :
    Statement (.pushc rsa rsb) := by
  simp only [Statement, encodeNat]
  have := rsa.isLt
  have := rsb.isLt
  omega

theorem pushf (rsa : Reg) (rsb : SReg) :
    Statement (.pushf rsa rsb) := by
  simp only [Statement, encodeNat]
  have := rsa.isLt
  have := rsb.isLt
  omega

theorem dma1r (bc : BitVec 8) (rla : Rla) (rsa : Reg) (ibi : Bool) (crcx : Bool) (crcy : Bool) (pod : Bool) (st : Bool) (rsb : SReg) :
    Statement (.dma1r bc rla rsa ibi crcx crcy pod st rsb) :=
  encDma_lt _ _ _ _ _ _ _ _ _ _ (by decide) (Nat.le_of_lt_succ (BitVec.isLt _))

theorem dma1w (bc : BitVec 8) (rla : Rla) (rsa : Reg) (ibi : Bool) (crcx : Bool) (crcy : Bool) (pod : Bool) (st : Bool) (rsb : SReg) :
    Statement (.dma1w bc rla rsa ibi crcx crcy pod st rsb) :=
  encDma_lt _ _ _ _ _ _ _ _ _ _ (by decide) (Nat.le_of_lt_succ (BitVec.isLt _))

theorem dma2r (bc : BitVec 8) (rla : Rla) (rsa : Reg) (ibi : Bool) (pod : Bool) (rsb : SReg) :
    Statement (.dma2r bc rla rsa ibi pod rsb) :=
  encDma_lt _ _ _ _ _ _ _ _ _ _ (by decide) (Nat.le_of_lt_succ (BitVec.isLt _))

theorem dma2w (bc : BitVec 8) (rla : Rla) (rsa : Reg) (ibi : Bool) (pod : Bool) (rsb : SReg) :
    Statement (.dma2w bc rla rsa ibi pod rsb) :=
  encDma_lt _ _ _ _ _ _ _ _ _ _ (by decide) (Nat.le_of_lt_succ (BitVec.isLt _))

theorem dma1rPlus (bc : BitVec 7) (rla : Rla) (rsa : Reg) (ibi : Bool) (crcx : Bool) (crcy : Bool) (pod : Bool) (st : Bool) (rsb : SReg) :
    Statement (.dma1rPlus bc rla rsa ibi crcx crcy pod st rsb) :=
  encDma_lt _ _ _ _ _ _ _ _ _ _ (by decide) (plus_le _)

theorem dma1wPlus (bc : BitVec 7) (rla : Rla) (rsa : Reg) (ibi : Bool) (crcx : Bool) (crcy : Bool) (pod : Bool) (st : Bool) (rsb : SReg) :
    Statement (.dma1wPlus bc rla rsa ibi crcx crcy pod st rsb) :=
  encDma_lt _ _ _ _ _ _ _ _ _ _ (by decide) (plus_le _)

theorem dma2rPlus (bc : BitVec 7) (rla : Rla) (rsa : Reg) (ibi : Bool) (pod : Bool) (rsb : SReg) :
    Statement (.dma2rPlus bc rla rsa ibi pod rsb) :=
  encDma_lt _ _ _ _ _ _ _ _ _ _ (by decide) (plus_le _)

theorem dma2wPlus (bc : BitVec 7) (rla : Rla) (rsa : Reg) (ibi : Bool) (pod : Bool) (rsb : SReg) :
    Statement (.dma2wPlus bc rla rsa ibi pod rsb) :=
  encDma_lt _ _ _ _ _ _ _ _ _ _ (by decide) (plus_le _)

theorem lmfm (rd : Reg) (lnk : Bool) (z : Bool) (rsa : Reg) (hw : BitVec 5) (rsb : SReg) :
    Statement (.lmfm rd lnk z rsa hw rsb) := by
  simp only [Statement, encodeNat]
  have := rd.isLt
  have := bitN_le lnk 19
  have := bitN_le z 16
  have := rsa.isLt
  have := hw.isLt
  have := rsb.isLt
  omega

theorem shfm (rsa : Reg) (rsb : SReg) :
    Statement (.shfm rsa rsb) := by
  simp only [Statement, encodeNat]
  have := rsa.isLt
  have := rsb.isLt
  omega

theorem srh (adr : BitVec 2) (reg : BitVec 3) (rsa : Reg) (lsbs : BitVec 5) (rsb : SReg) :
    Statement (.srh adr reg rsa lsbs rsb) := by
  simp only [Statement, encodeNat]
  have := adr.isLt
  have := reg.isLt
  have := rsa.isLt
  have := lsbs.isLt
  have := rsb.isLt
  omega

theorem ld (rd : Reg) (rla : Rla) (swap : BitVec 2) (idx : BitVec 5) :
    Statement (.ld rd rla swap idx) := by
  simp only [Statement, encodeNat]
  have := rd.isLt
  have := rlaCode_le rla
  have := swap.isLt
  have := idx.isLt
  omega

theorem ldd (rd : Reg) (rla : Rla) (swap : BitVec 2) (idx : BitVec 5) :
    Statement (.ldd rd rla swap idx) := by
  simp only [Statement, encodeNat]
  have := rd.isLt
  have := rlaCode_le rla
  have := swap.isLt
  have := idx.isLt
  omega

theorem st (swap : BitVec 2) (rla : Rla) (rsa : Reg) (idx : BitVec 5) :
    Statement (.st swap rla rsa idx) := by
  simp only [Statement, encodeNat]
  have := swap.isLt
  have := rlaCode_le rla
  have := rsa.isLt
  have := idx.isLt
  omega

theorem std (swap : BitVec 2) (rla : Rla) (rsa : Reg) (idx : BitVec 5) (rsb : SReg) :
    Statement (.std swap rla rsa idx rsb) := by
  simp only [Statement, encodeNat]
  have := swap.isLt
  have := rlaCode_le rla
  have := rsa.isLt
  have := idx.isLt
  have := rsb.isLt
  omega

theorem nop : Statement .nop := by show encodeNat .nop < 2 ^ 32; decide

theorem mv (rd : Reg) (rsa : Reg) :
    Statement (.mv rd rsa) :=
  encAluI10_lt _ _ _ _ _ _ (by decide) (by decide)

theorem tset (rsa : Reg) (mask : BitVec 10) :
    Statement (.tset rsa mask) :=
  encAluI10_lt _ _ _ _ _ _ (by decide) (by decide)

theorem tclr (rsa : Reg) (mask : BitVec 10) :
    Statement (.tclr rsa mask) :=
  encAluI10_lt _ _ _ _ _ _ (by decide) (by decide)

end Sys2Proof.Laws.EncodeFits
end

