-- ==== Sys2Proof/Laws/Updates.lean ====
section
/-!
SUPPORT. One lemma per field for the updates of single instruction families: the counter operation,
the nullified word, the link write, the queueing of a DMA command, the holding registers, the link, the
load of R58 by a linked LMFM, and a Cell Buffer halfword that becomes unwritten.
-/
namespace Sys2Proof.Machine

/-! ### `csoApply`: the counter operation -/

section
variable (s : State) (c : Cso)
@[simp] theorem csoApply_cfg : (csoApply s c).cfg = s.cfg := by cases c <;> rfl
@[simp] theorem csoApply_regs : (csoApply s c).regs = s.regs := by cases c <;> rfl
@[simp] theorem csoApply_mode : (csoApply s c).mode = s.mode := by cases c <;> rfl
@[simp] theorem csoApply_fifo : (csoApply s c).fifo = s.fifo := by cases c <;> rfl
@[simp] theorem csoApply_fifoWr : (csoApply s c).fifoWr = s.fifoWr := by cases c <;> rfl
@[simp] theorem csoApply_fifoRd : (csoApply s c).fifoRd = s.fifoRd := by cases c <;> rfl
@[simp] theorem csoApply_opts : (csoApply s c).opts = s.opts := by cases c <;> rfl
@[simp] theorem csoApply_cinBusy : (csoApply s c).cinBusy = s.cinBusy := by cases c <;> rfl
@[simp] theorem csoApply_coutRdy : (csoApply s c).coutRdy = s.coutRdy := by cases c <;> rfl
@[simp] theorem csoApply_cinLag : (csoApply s c).cinLag = s.cinLag := by cases c <;> rfl
@[simp] theorem csoApply_coutLag : (csoApply s c).coutLag = s.coutLag := by cases c <;> rfl
@[simp] theorem csoApply_pitInit0 : (csoApply s c).pitInit0 = s.pitInit0 := by cases c <;> rfl
@[simp] theorem csoApply_pitInit1 : (csoApply s c).pitInit1 = s.pitInit1 := by cases c <;> rfl
@[simp] theorem csoApply_ovf : (csoApply s c).ovf = s.ovf := by cases c <;> rfl
@[simp] theorem csoApply_acf : (csoApply s c).acf = s.acf := by cases c <;> rfl
@[simp] theorem csoApply_cmpState : (csoApply s c).cmpState = s.cmpState := by cases c <;> rfl
@[simp] theorem csoApply_pc : (csoApply s c).pc = s.pc := by cases c <;> rfl
@[simp] theorem csoApply_fq : (csoApply s c).fq = s.fq := by cases c <;> rfl
@[simp] theorem csoApply_ctag : (csoApply s c).ctag = s.ctag := by cases c <;> rfl
@[simp] theorem csoApply_icPages : (csoApply s c).icPages = s.icPages := by cases c <;> rfl
@[simp] theorem csoApply_icWords : (csoApply s c).icWords = s.icWords := by cases c <;> rfl
@[simp] theorem csoApply_linkAdrs : (csoApply s c).linkAdrs = s.linkAdrs := by cases c <;> rfl
@[simp] theorem csoApply_linkMask : (csoApply s c).linkMask = s.linkMask := by cases c <;> rfl
@[simp] theorem csoApply_holdX : (csoApply s c).holdX = s.holdX := by cases c <;> rfl
@[simp] theorem csoApply_holdY : (csoApply s c).holdY = s.holdY := by cases c <;> rfl
@[simp] theorem csoApply_wbuf : (csoApply s c).wbuf = s.wbuf := by cases c <;> rfl
@[simp] theorem csoApply_fmJobs : (csoApply s c).fmJobs = s.fmJobs := by cases c <;> rfl
@[simp] theorem csoApply_lsu : (csoApply s c).lsu = s.lsu := by cases c <;> rfl
@[simp] theorem csoApply_cssq : (csoApply s c).cssq = s.cssq := by cases c <;> rfl
@[simp] theorem csoApply_q1 : (csoApply s c).q1 = s.q1 := by cases c <;> rfl
@[simp] theorem csoApply_q2 : (csoApply s c).q2 = s.q2 := by cases c <;> rfl
@[simp] theorem csoApply_residue : (csoApply s c).residue = s.residue := by cases c <;> rfl
@[simp] theorem csoApply_rxIdx : (csoApply s c).rxIdx = s.rxIdx := by cases c <;> rfl
@[simp] theorem csoApply_txIdx : (csoApply s c).txIdx = s.txIdx := by cases c <;> rfl
@[simp] theorem csoApply_rxCell : (csoApply s c).rxCell = s.rxCell := by cases c <;> rfl
@[simp] theorem csoApply_txCell : (csoApply s c).txCell = s.txCell := by cases c <;> rfl
@[simp] theorem csoApply_dma2Count : (csoApply s c).dma2Count = s.dma2Count := by cases c <;> rfl
@[simp] theorem csoApply_hecA : (csoApply s c).hecA = s.hecA := by cases c <;> rfl
@[simp] theorem csoApply_hecB : (csoApply s c).hecB = s.hecB := by cases c <;> rfl
@[simp] theorem csoApply_hecPhase : (csoApply s c).hecPhase = s.hecPhase := by cases c <;> rfl
@[simp] theorem csoApply_recs : (csoApply s c).recs = s.recs := by cases c <;> rfl
@[simp] theorem csoApply_plus : (csoApply s c).plus = s.plus := by cases c <;> rfl
@[simp] theorem csoApply_rlaPrev : (csoApply s c).rlaPrev = s.rlaPrev := by cases c <;> rfl
@[simp] theorem csoApply_rlaTrap : (csoApply s c).rlaTrap = s.rlaTrap := by cases c <;> rfl
@[simp] theorem csoApply_popcShadow : (csoApply s c).popcShadow = s.popcShadow := by cases c <;> rfl
@[simp] theorem csoApply_segBranch : (csoApply s c).segBranch = s.segBranch := by cases c <;> rfl
@[simp] theorem csoApply_popfAge : (csoApply s c).popfAge = s.popfAge := by cases c <;> rfl
@[simp] theorem csoApply_dmaLag : (csoApply s c).dmaLag = s.dmaLag := by cases c <;> rfl
@[simp] theorem csoApply_fm : (csoApply s c).fm = s.fm := by cases c <;> rfl
@[simp] theorem csoApply_cb : (csoApply s c).cb = s.cb := by cases c <;> rfl
@[simp] theorem csoApply_sb : (csoApply s c).sb = s.sb := by cases c <;> rfl
@[simp] theorem csoApply_p1 : (csoApply s c).p1 = s.p1 := by cases c <;> rfl
@[simp] theorem csoApply_p2b : (csoApply s c).p2b = s.p2b := by cases c <;> rfl
@[simp] theorem csoApply_p2n : (csoApply s c).p2n = s.p2n := by cases c <;> rfl
@[simp] theorem csoApply_icsi : (csoApply s c).icsi = s.icsi := by cases c <;> rfl
@[simp] theorem csoApply_icsiPrev : (csoApply s c).icsiPrev = s.icsiPrev := by cases c <;> rfl
@[simp] theorem csoApply_pitEdges0 : (csoApply s c).pitEdges0 = s.pitEdges0 := by cases c <;> rfl
@[simp] theorem csoApply_pitEdges1 : (csoApply s c).pitEdges1 = s.pitEdges1 := by cases c <;> rfl
@[simp] theorem csoApply_sent : (csoApply s c).sent = s.sent := by cases c <;> rfl
@[simp] theorem csoApply_stuck : (csoApply s c).stuck = s.stuck := by cases c <;> rfl
@[simp] theorem csoApply_agenda : (csoApply s c).agenda = s.agenda := by cases c <;> rfl
@[simp] theorem csoApply_turn : (csoApply s c).turn = s.turn := by cases c <;> rfl
@[simp] theorem csoApply_draws : (csoApply s c).draws = s.draws := by cases c <;> rfl
@[simp] theorem csoApply_rxbusy :
    (csoApply s c).rxbusy = if c = .drxbusy then s.rxbusy - 1 else s.rxbusy := by cases c <;> rfl
@[simp] theorem csoApply_rxfull :
    (csoApply s c).rxfull = if c = .drxfull then s.rxfull - 1 else s.rxfull := by cases c <;> rfl
@[simp] theorem csoApply_txbusy :
    (csoApply s c).txbusy = if c = .itxbusy then s.txbusy + 1 else s.txbusy := by cases c <;> rfl
@[simp] theorem csoApply_txfull :
    (csoApply s c).txfull = if c = .itxfull then s.txfull + 1 else s.txfull := by cases c <;> rfl
end

/-! ### `nullifyEffect`: a nullified word -/

section
variable (w s : State)
@[simp] theorem nullifyEffect_cfg : (nullifyEffect w s).cfg = s.cfg := rfl
@[simp] theorem nullifyEffect_regs : (nullifyEffect w s).regs = s.regs := rfl
@[simp] theorem nullifyEffect_mode : (nullifyEffect w s).mode = s.mode := rfl
@[simp] theorem nullifyEffect_fifo : (nullifyEffect w s).fifo = s.fifo := rfl
@[simp] theorem nullifyEffect_fifoWr : (nullifyEffect w s).fifoWr = s.fifoWr := rfl
@[simp] theorem nullifyEffect_fifoRd : (nullifyEffect w s).fifoRd = s.fifoRd := rfl
@[simp] theorem nullifyEffect_opts : (nullifyEffect w s).opts = s.opts := rfl
@[simp] theorem nullifyEffect_coutRdy : (nullifyEffect w s).coutRdy = s.coutRdy := rfl
@[simp] theorem nullifyEffect_coutLag : (nullifyEffect w s).coutLag = s.coutLag := rfl
@[simp] theorem nullifyEffect_pitInit0 : (nullifyEffect w s).pitInit0 = s.pitInit0 := rfl
@[simp] theorem nullifyEffect_pitInit1 : (nullifyEffect w s).pitInit1 = s.pitInit1 := rfl
@[simp] theorem nullifyEffect_ovf : (nullifyEffect w s).ovf = s.ovf := rfl
@[simp] theorem nullifyEffect_acf : (nullifyEffect w s).acf = s.acf := rfl
@[simp] theorem nullifyEffect_cmpState : (nullifyEffect w s).cmpState = s.cmpState := rfl
@[simp] theorem nullifyEffect_pc : (nullifyEffect w s).pc = s.pc := rfl
@[simp] theorem nullifyEffect_fq : (nullifyEffect w s).fq = s.fq := rfl
@[simp] theorem nullifyEffect_ctag : (nullifyEffect w s).ctag = s.ctag := rfl
@[simp] theorem nullifyEffect_linkAdrs : (nullifyEffect w s).linkAdrs = s.linkAdrs := rfl
@[simp] theorem nullifyEffect_linkMask : (nullifyEffect w s).linkMask = s.linkMask := rfl
@[simp] theorem nullifyEffect_holdX : (nullifyEffect w s).holdX = s.holdX := rfl
@[simp] theorem nullifyEffect_holdY : (nullifyEffect w s).holdY = s.holdY := rfl
@[simp] theorem nullifyEffect_wbuf : (nullifyEffect w s).wbuf = s.wbuf := rfl
@[simp] theorem nullifyEffect_fmJobs : (nullifyEffect w s).fmJobs = s.fmJobs := rfl
@[simp] theorem nullifyEffect_lsu : (nullifyEffect w s).lsu = s.lsu := rfl
@[simp] theorem nullifyEffect_cssq : (nullifyEffect w s).cssq = s.cssq := rfl
@[simp] theorem nullifyEffect_q1 : (nullifyEffect w s).q1 = s.q1 := rfl
@[simp] theorem nullifyEffect_q2 : (nullifyEffect w s).q2 = s.q2 := rfl
@[simp] theorem nullifyEffect_residue : (nullifyEffect w s).residue = s.residue := rfl
@[simp] theorem nullifyEffect_rxbusy : (nullifyEffect w s).rxbusy = s.rxbusy := rfl
@[simp] theorem nullifyEffect_rxfull : (nullifyEffect w s).rxfull = s.rxfull := rfl
@[simp] theorem nullifyEffect_txbusy : (nullifyEffect w s).txbusy = s.txbusy := rfl
@[simp] theorem nullifyEffect_txfull : (nullifyEffect w s).txfull = s.txfull := rfl
@[simp] theorem nullifyEffect_rxIdx : (nullifyEffect w s).rxIdx = s.rxIdx := rfl
@[simp] theorem nullifyEffect_txIdx : (nullifyEffect w s).txIdx = s.txIdx := rfl
@[simp] theorem nullifyEffect_rxCell : (nullifyEffect w s).rxCell = s.rxCell := rfl
@[simp] theorem nullifyEffect_txCell : (nullifyEffect w s).txCell = s.txCell := rfl
@[simp] theorem nullifyEffect_dma2Count : (nullifyEffect w s).dma2Count = s.dma2Count := rfl
@[simp] theorem nullifyEffect_hecA : (nullifyEffect w s).hecA = s.hecA := rfl
@[simp] theorem nullifyEffect_hecB : (nullifyEffect w s).hecB = s.hecB := rfl
@[simp] theorem nullifyEffect_hecPhase : (nullifyEffect w s).hecPhase = s.hecPhase := rfl
@[simp] theorem nullifyEffect_recs : (nullifyEffect w s).recs = s.recs := rfl
@[simp] theorem nullifyEffect_plus : (nullifyEffect w s).plus = s.plus := rfl
@[simp] theorem nullifyEffect_rlaPrev : (nullifyEffect w s).rlaPrev = s.rlaPrev := rfl
@[simp] theorem nullifyEffect_rlaTrap : (nullifyEffect w s).rlaTrap = s.rlaTrap := rfl
@[simp] theorem nullifyEffect_popcShadow : (nullifyEffect w s).popcShadow = s.popcShadow := rfl
@[simp] theorem nullifyEffect_segBranch : (nullifyEffect w s).segBranch = s.segBranch := rfl
@[simp] theorem nullifyEffect_popfAge : (nullifyEffect w s).popfAge = s.popfAge := rfl
@[simp] theorem nullifyEffect_dmaLag : (nullifyEffect w s).dmaLag = s.dmaLag := rfl
@[simp] theorem nullifyEffect_fm : (nullifyEffect w s).fm = s.fm := rfl
@[simp] theorem nullifyEffect_cb : (nullifyEffect w s).cb = s.cb := rfl
@[simp] theorem nullifyEffect_sb : (nullifyEffect w s).sb = s.sb := rfl
@[simp] theorem nullifyEffect_p1 : (nullifyEffect w s).p1 = s.p1 := rfl
@[simp] theorem nullifyEffect_p2b : (nullifyEffect w s).p2b = s.p2b := rfl
@[simp] theorem nullifyEffect_p2n : (nullifyEffect w s).p2n = s.p2n := rfl
@[simp] theorem nullifyEffect_icsi : (nullifyEffect w s).icsi = s.icsi := rfl
@[simp] theorem nullifyEffect_icsiPrev : (nullifyEffect w s).icsiPrev = s.icsiPrev := rfl
@[simp] theorem nullifyEffect_pitEdges0 : (nullifyEffect w s).pitEdges0 = s.pitEdges0 := rfl
@[simp] theorem nullifyEffect_pitEdges1 : (nullifyEffect w s).pitEdges1 = s.pitEdges1 := rfl
@[simp] theorem nullifyEffect_sent : (nullifyEffect w s).sent = s.sent := rfl
@[simp] theorem nullifyEffect_stuck : (nullifyEffect w s).stuck = s.stuck := rfl
@[simp] theorem nullifyEffect_agenda : (nullifyEffect w s).agenda = s.agenda := rfl
@[simp] theorem nullifyEffect_turn : (nullifyEffect w s).turn = s.turn := rfl
@[simp] theorem nullifyEffect_draws : (nullifyEffect w s).draws = s.draws := rfl
theorem nullifyEffect_icPages :
    (nullifyEffect w s).icPages = (recordFetch w (w.pc + 1)).icPages := rfl
theorem nullifyEffect_icWords :
    (nullifyEffect w s).icWords = (recordFetch w (w.pc + 1)).icWords := rfl
theorem nullifyEffect_cinBusy : (nullifyEffect w s).cinBusy =
    if namesComm w (nullifiedWord w) then false else s.cinBusy := rfl
end

/-! ### `writeLink`: the link write -/

section
variable (w s : State) (n : Bool)
@[simp] theorem writeLink_cfg : (writeLink w s n).cfg = s.cfg := rfl
@[simp] theorem writeLink_mode : (writeLink w s n).mode = s.mode := rfl
@[simp] theorem writeLink_fifo : (writeLink w s n).fifo = s.fifo := rfl
@[simp] theorem writeLink_fifoWr : (writeLink w s n).fifoWr = s.fifoWr := rfl
@[simp] theorem writeLink_fifoRd : (writeLink w s n).fifoRd = s.fifoRd := rfl
@[simp] theorem writeLink_opts : (writeLink w s n).opts = s.opts := rfl
@[simp] theorem writeLink_cinBusy : (writeLink w s n).cinBusy = s.cinBusy := rfl
@[simp] theorem writeLink_coutRdy : (writeLink w s n).coutRdy = s.coutRdy := rfl
@[simp] theorem writeLink_cinLag : (writeLink w s n).cinLag = s.cinLag := rfl
@[simp] theorem writeLink_coutLag : (writeLink w s n).coutLag = s.coutLag := rfl
@[simp] theorem writeLink_pitInit0 : (writeLink w s n).pitInit0 = s.pitInit0 := rfl
@[simp] theorem writeLink_pitInit1 : (writeLink w s n).pitInit1 = s.pitInit1 := rfl
@[simp] theorem writeLink_ovf : (writeLink w s n).ovf = s.ovf := rfl
@[simp] theorem writeLink_acf : (writeLink w s n).acf = s.acf := rfl
@[simp] theorem writeLink_cmpState : (writeLink w s n).cmpState = s.cmpState := rfl
@[simp] theorem writeLink_pc : (writeLink w s n).pc = s.pc := rfl
@[simp] theorem writeLink_fq : (writeLink w s n).fq = s.fq := rfl
@[simp] theorem writeLink_ctag : (writeLink w s n).ctag = s.ctag := rfl
@[simp] theorem writeLink_icPages : (writeLink w s n).icPages = s.icPages := rfl
@[simp] theorem writeLink_icWords : (writeLink w s n).icWords = s.icWords := rfl
@[simp] theorem writeLink_linkAdrs : (writeLink w s n).linkAdrs = s.linkAdrs := rfl
@[simp] theorem writeLink_linkMask : (writeLink w s n).linkMask = s.linkMask := rfl
@[simp] theorem writeLink_holdX : (writeLink w s n).holdX = s.holdX := rfl
@[simp] theorem writeLink_holdY : (writeLink w s n).holdY = s.holdY := rfl
@[simp] theorem writeLink_wbuf : (writeLink w s n).wbuf = s.wbuf := rfl
@[simp] theorem writeLink_fmJobs : (writeLink w s n).fmJobs = s.fmJobs := rfl
@[simp] theorem writeLink_lsu : (writeLink w s n).lsu = s.lsu := rfl
@[simp] theorem writeLink_cssq : (writeLink w s n).cssq = s.cssq := rfl
@[simp] theorem writeLink_q1 : (writeLink w s n).q1 = s.q1 := rfl
@[simp] theorem writeLink_q2 : (writeLink w s n).q2 = s.q2 := rfl
@[simp] theorem writeLink_residue : (writeLink w s n).residue = s.residue := rfl
@[simp] theorem writeLink_rxbusy : (writeLink w s n).rxbusy = s.rxbusy := rfl
@[simp] theorem writeLink_rxfull : (writeLink w s n).rxfull = s.rxfull := rfl
@[simp] theorem writeLink_txbusy : (writeLink w s n).txbusy = s.txbusy := rfl
@[simp] theorem writeLink_txfull : (writeLink w s n).txfull = s.txfull := rfl
@[simp] theorem writeLink_rxIdx : (writeLink w s n).rxIdx = s.rxIdx := rfl
@[simp] theorem writeLink_txIdx : (writeLink w s n).txIdx = s.txIdx := rfl
@[simp] theorem writeLink_rxCell : (writeLink w s n).rxCell = s.rxCell := rfl
@[simp] theorem writeLink_txCell : (writeLink w s n).txCell = s.txCell := rfl
@[simp] theorem writeLink_dma2Count : (writeLink w s n).dma2Count = s.dma2Count := rfl
@[simp] theorem writeLink_hecA : (writeLink w s n).hecA = s.hecA := rfl
@[simp] theorem writeLink_hecB : (writeLink w s n).hecB = s.hecB := rfl
@[simp] theorem writeLink_hecPhase : (writeLink w s n).hecPhase = s.hecPhase := rfl
@[simp] theorem writeLink_plus : (writeLink w s n).plus = s.plus := rfl
@[simp] theorem writeLink_rlaPrev : (writeLink w s n).rlaPrev = s.rlaPrev := rfl
@[simp] theorem writeLink_rlaTrap : (writeLink w s n).rlaTrap = s.rlaTrap := rfl
@[simp] theorem writeLink_popcShadow : (writeLink w s n).popcShadow = s.popcShadow := rfl
@[simp] theorem writeLink_segBranch : (writeLink w s n).segBranch = s.segBranch := rfl
@[simp] theorem writeLink_popfAge : (writeLink w s n).popfAge = s.popfAge := rfl
@[simp] theorem writeLink_dmaLag : (writeLink w s n).dmaLag = s.dmaLag := rfl
@[simp] theorem writeLink_fm : (writeLink w s n).fm = s.fm := rfl
@[simp] theorem writeLink_cb : (writeLink w s n).cb = s.cb := rfl
@[simp] theorem writeLink_sb : (writeLink w s n).sb = s.sb := rfl
@[simp] theorem writeLink_p1 : (writeLink w s n).p1 = s.p1 := rfl
@[simp] theorem writeLink_p2b : (writeLink w s n).p2b = s.p2b := rfl
@[simp] theorem writeLink_p2n : (writeLink w s n).p2n = s.p2n := rfl
@[simp] theorem writeLink_icsi : (writeLink w s n).icsi = s.icsi := rfl
@[simp] theorem writeLink_icsiPrev : (writeLink w s n).icsiPrev = s.icsiPrev := rfl
@[simp] theorem writeLink_pitEdges0 : (writeLink w s n).pitEdges0 = s.pitEdges0 := rfl
@[simp] theorem writeLink_pitEdges1 : (writeLink w s n).pitEdges1 = s.pitEdges1 := rfl
@[simp] theorem writeLink_sent : (writeLink w s n).sent = s.sent := rfl
@[simp] theorem writeLink_stuck : (writeLink w s n).stuck = s.stuck := rfl
@[simp] theorem writeLink_agenda : (writeLink w s n).agenda = s.agenda := rfl
@[simp] theorem writeLink_turn : (writeLink w s n).turn = s.turn := rfl
@[simp] theorem writeLink_draws : (writeLink w s n).draws = s.draws := rfl
@[simp] theorem writeLink_regs :
    (writeLink w s n).regs = s.regs.set 59 (linkValue w) := rfl
end

/-! ### `enqueue`: the queueing of a DMA command -/

section
variable (s : State) (p : Bool) (c : DmaCmd)
@[simp] theorem enqueue_cfg : (enqueue s p c).cfg = s.cfg := by
  unfold enqueue; split <;> (try split) <;> rfl
@[simp] theorem enqueue_regs : (enqueue s p c).regs = s.regs := by
  unfold enqueue; split <;> (try split) <;> rfl
@[simp] theorem enqueue_mode : (enqueue s p c).mode = s.mode := by
  unfold enqueue; split <;> (try split) <;> rfl
@[simp] theorem enqueue_fifo : (enqueue s p c).fifo = s.fifo := by
  unfold enqueue; split <;> (try split) <;> rfl
@[simp] theorem enqueue_fifoWr : (enqueue s p c).fifoWr = s.fifoWr := by
  unfold enqueue; split <;> (try split) <;> rfl
@[simp] theorem enqueue_fifoRd : (enqueue s p c).fifoRd = s.fifoRd := by
  unfold enqueue; split <;> (try split) <;> rfl
@[simp] theorem enqueue_opts : (enqueue s p c).opts = s.opts := by
  unfold enqueue; split <;> (try split) <;> rfl
@[simp] theorem enqueue_cinBusy : (enqueue s p c).cinBusy = s.cinBusy := by
  unfold enqueue; split <;> (try split) <;> rfl
@[simp] theorem enqueue_coutRdy : (enqueue s p c).coutRdy = s.coutRdy := by
  unfold enqueue; split <;> (try split) <;> rfl
@[simp] theorem enqueue_cinLag : (enqueue s p c).cinLag = s.cinLag := by
  unfold enqueue; split <;> (try split) <;> rfl
@[simp] theorem enqueue_coutLag : (enqueue s p c).coutLag = s.coutLag := by
  unfold enqueue; split <;> (try split) <;> rfl
@[simp] theorem enqueue_pitInit0 : (enqueue s p c).pitInit0 = s.pitInit0 := by
  unfold enqueue; split <;> (try split) <;> rfl
@[simp] theorem enqueue_pitInit1 : (enqueue s p c).pitInit1 = s.pitInit1 := by
  unfold enqueue; split <;> (try split) <;> rfl
@[simp] theorem enqueue_ovf : (enqueue s p c).ovf = s.ovf := by
  unfold enqueue; split <;> (try split) <;> rfl
@[simp] theorem enqueue_acf : (enqueue s p c).acf = s.acf := by
  unfold enqueue; split <;> (try split) <;> rfl
@[simp] theorem enqueue_cmpState : (enqueue s p c).cmpState = s.cmpState := by
  unfold enqueue; split <;> (try split) <;> rfl
@[simp] theorem enqueue_pc : (enqueue s p c).pc = s.pc := by
  unfold enqueue; split <;> (try split) <;> rfl
@[simp] theorem enqueue_fq : (enqueue s p c).fq = s.fq := by
  unfold enqueue; split <;> (try split) <;> rfl
@[simp] theorem enqueue_ctag : (enqueue s p c).ctag = s.ctag := by
  unfold enqueue; split <;> (try split) <;> rfl
@[simp] theorem enqueue_icPages : (enqueue s p c).icPages = s.icPages := by
  unfold enqueue; split <;> (try split) <;> rfl
@[simp] theorem enqueue_icWords : (enqueue s p c).icWords = s.icWords := by
  unfold enqueue; split <;> (try split) <;> rfl
@[simp] theorem enqueue_linkAdrs : (enqueue s p c).linkAdrs = s.linkAdrs := by
  unfold enqueue; split <;> (try split) <;> rfl
@[simp] theorem enqueue_linkMask : (enqueue s p c).linkMask = s.linkMask := by
  unfold enqueue; split <;> (try split) <;> rfl
@[simp] theorem enqueue_holdX : (enqueue s p c).holdX = s.holdX := by
  unfold enqueue; split <;> (try split) <;> rfl
@[simp] theorem enqueue_holdY : (enqueue s p c).holdY = s.holdY := by
  unfold enqueue; split <;> (try split) <;> rfl
@[simp] theorem enqueue_wbuf : (enqueue s p c).wbuf = s.wbuf := by
  unfold enqueue; split <;> (try split) <;> rfl
@[simp] theorem enqueue_fmJobs : (enqueue s p c).fmJobs = s.fmJobs := by
  unfold enqueue; split <;> (try split) <;> rfl
@[simp] theorem enqueue_lsu : (enqueue s p c).lsu = s.lsu := by
  unfold enqueue; split <;> (try split) <;> rfl
@[simp] theorem enqueue_cssq : (enqueue s p c).cssq = s.cssq := by
  unfold enqueue; split <;> (try split) <;> rfl
@[simp] theorem enqueue_residue : (enqueue s p c).residue = s.residue := by
  unfold enqueue; split <;> (try split) <;> rfl
@[simp] theorem enqueue_rxbusy : (enqueue s p c).rxbusy = s.rxbusy := by
  unfold enqueue; split <;> (try split) <;> rfl
@[simp] theorem enqueue_rxfull : (enqueue s p c).rxfull = s.rxfull := by
  unfold enqueue; split <;> (try split) <;> rfl
@[simp] theorem enqueue_txbusy : (enqueue s p c).txbusy = s.txbusy := by
  unfold enqueue; split <;> (try split) <;> rfl
@[simp] theorem enqueue_txfull : (enqueue s p c).txfull = s.txfull := by
  unfold enqueue; split <;> (try split) <;> rfl
@[simp] theorem enqueue_rxIdx : (enqueue s p c).rxIdx = s.rxIdx := by
  unfold enqueue; split <;> (try split) <;> rfl
@[simp] theorem enqueue_txIdx : (enqueue s p c).txIdx = s.txIdx := by
  unfold enqueue; split <;> (try split) <;> rfl
@[simp] theorem enqueue_rxCell : (enqueue s p c).rxCell = s.rxCell := by
  unfold enqueue; split <;> (try split) <;> rfl
@[simp] theorem enqueue_txCell : (enqueue s p c).txCell = s.txCell := by
  unfold enqueue; split <;> (try split) <;> rfl
@[simp] theorem enqueue_dma2Count : (enqueue s p c).dma2Count = s.dma2Count := by
  unfold enqueue; split <;> (try split) <;> rfl
@[simp] theorem enqueue_hecA : (enqueue s p c).hecA = s.hecA := by
  unfold enqueue; split <;> (try split) <;> rfl
@[simp] theorem enqueue_hecB : (enqueue s p c).hecB = s.hecB := by
  unfold enqueue; split <;> (try split) <;> rfl
@[simp] theorem enqueue_hecPhase : (enqueue s p c).hecPhase = s.hecPhase := by
  unfold enqueue; split <;> (try split) <;> rfl
@[simp] theorem enqueue_recs : (enqueue s p c).recs = s.recs := by
  unfold enqueue; split <;> (try split) <;> rfl
@[simp] theorem enqueue_plus : (enqueue s p c).plus = s.plus := by
  unfold enqueue; split <;> (try split) <;> rfl
@[simp] theorem enqueue_rlaPrev : (enqueue s p c).rlaPrev = s.rlaPrev := by
  unfold enqueue; split <;> (try split) <;> rfl
@[simp] theorem enqueue_rlaTrap : (enqueue s p c).rlaTrap = s.rlaTrap := by
  unfold enqueue; split <;> (try split) <;> rfl
@[simp] theorem enqueue_popcShadow : (enqueue s p c).popcShadow = s.popcShadow := by
  unfold enqueue; split <;> (try split) <;> rfl
@[simp] theorem enqueue_segBranch : (enqueue s p c).segBranch = s.segBranch := by
  unfold enqueue; split <;> (try split) <;> rfl
@[simp] theorem enqueue_popfAge : (enqueue s p c).popfAge = s.popfAge := by
  unfold enqueue; split <;> (try split) <;> rfl
@[simp] theorem enqueue_dmaLag : (enqueue s p c).dmaLag = s.dmaLag := by
  unfold enqueue; split <;> (try split) <;> rfl
@[simp] theorem enqueue_fm : (enqueue s p c).fm = s.fm := by
  unfold enqueue; split <;> (try split) <;> rfl
@[simp] theorem enqueue_cb : (enqueue s p c).cb = s.cb := by
  unfold enqueue; split <;> (try split) <;> rfl
@[simp] theorem enqueue_sb : (enqueue s p c).sb = s.sb := by
  unfold enqueue; split <;> (try split) <;> rfl
@[simp] theorem enqueue_p1 : (enqueue s p c).p1 = s.p1 := by
  unfold enqueue; split <;> (try split) <;> rfl
@[simp] theorem enqueue_p2b : (enqueue s p c).p2b = s.p2b := by
  unfold enqueue; split <;> (try split) <;> rfl
@[simp] theorem enqueue_p2n : (enqueue s p c).p2n = s.p2n := by
  unfold enqueue; split <;> (try split) <;> rfl
@[simp] theorem enqueue_icsi : (enqueue s p c).icsi = s.icsi := by
  unfold enqueue; split <;> (try split) <;> rfl
@[simp] theorem enqueue_icsiPrev : (enqueue s p c).icsiPrev = s.icsiPrev := by
  unfold enqueue; split <;> (try split) <;> rfl
@[simp] theorem enqueue_pitEdges0 : (enqueue s p c).pitEdges0 = s.pitEdges0 := by
  unfold enqueue; split <;> (try split) <;> rfl
@[simp] theorem enqueue_pitEdges1 : (enqueue s p c).pitEdges1 = s.pitEdges1 := by
  unfold enqueue; split <;> (try split) <;> rfl
@[simp] theorem enqueue_sent : (enqueue s p c).sent = s.sent := by
  unfold enqueue; split <;> (try split) <;> rfl
@[simp] theorem enqueue_stuck : (enqueue s p c).stuck = s.stuck := by
  unfold enqueue; split <;> (try split) <;> rfl
@[simp] theorem enqueue_agenda : (enqueue s p c).agenda = s.agenda := by
  unfold enqueue; split <;> (try split) <;> rfl
@[simp] theorem enqueue_turn : (enqueue s p c).turn = s.turn := by
  unfold enqueue; split <;> (try split) <;> rfl
@[simp] theorem enqueue_draws : (enqueue s p c).draws = s.draws := by
  unfold enqueue; split <;> (try split) <;> rfl
@[simp] theorem enqueue_q1 : (enqueue s p c).q1 =
    if p || dmaDiscarded c then s.q1 else s.q1 ++ [c] := by
  unfold enqueue; cases p <;> cases dmaDiscarded c <;> rfl
@[simp] theorem enqueue_q2 : (enqueue s p c).q2 = if p then s.q2 ++ [c] else s.q2 := by
  unfold enqueue; cases p <;> cases dmaDiscarded c <;> rfl
end

/-! ### `captureHold`: the holding registers -/

section
variable (s : State) (c : DmaCmd)
@[simp] theorem captureHold_cfg : (captureHold s c).cfg = s.cfg := by
  unfold captureHold; split <;> rfl
@[simp] theorem captureHold_regs : (captureHold s c).regs = s.regs := by
  unfold captureHold; split <;> rfl
@[simp] theorem captureHold_mode : (captureHold s c).mode = s.mode := by
  unfold captureHold; split <;> rfl
@[simp] theorem captureHold_fifo : (captureHold s c).fifo = s.fifo := by
  unfold captureHold; split <;> rfl
@[simp] theorem captureHold_fifoWr : (captureHold s c).fifoWr = s.fifoWr := by
  unfold captureHold; split <;> rfl
@[simp] theorem captureHold_fifoRd : (captureHold s c).fifoRd = s.fifoRd := by
  unfold captureHold; split <;> rfl
@[simp] theorem captureHold_opts : (captureHold s c).opts = s.opts := by
  unfold captureHold; split <;> rfl
@[simp] theorem captureHold_cinBusy : (captureHold s c).cinBusy = s.cinBusy := by
  unfold captureHold; split <;> rfl
@[simp] theorem captureHold_coutRdy : (captureHold s c).coutRdy = s.coutRdy := by
  unfold captureHold; split <;> rfl
@[simp] theorem captureHold_cinLag : (captureHold s c).cinLag = s.cinLag := by
  unfold captureHold; split <;> rfl
@[simp] theorem captureHold_coutLag : (captureHold s c).coutLag = s.coutLag := by
  unfold captureHold; split <;> rfl
@[simp] theorem captureHold_pitInit0 : (captureHold s c).pitInit0 = s.pitInit0 := by
  unfold captureHold; split <;> rfl
@[simp] theorem captureHold_pitInit1 : (captureHold s c).pitInit1 = s.pitInit1 := by
  unfold captureHold; split <;> rfl
@[simp] theorem captureHold_ovf : (captureHold s c).ovf = s.ovf := by
  unfold captureHold; split <;> rfl
@[simp] theorem captureHold_acf : (captureHold s c).acf = s.acf := by
  unfold captureHold; split <;> rfl
@[simp] theorem captureHold_cmpState : (captureHold s c).cmpState = s.cmpState := by
  unfold captureHold; split <;> rfl
@[simp] theorem captureHold_pc : (captureHold s c).pc = s.pc := by
  unfold captureHold; split <;> rfl
@[simp] theorem captureHold_fq : (captureHold s c).fq = s.fq := by
  unfold captureHold; split <;> rfl
@[simp] theorem captureHold_ctag : (captureHold s c).ctag = s.ctag := by
  unfold captureHold; split <;> rfl
@[simp] theorem captureHold_icPages : (captureHold s c).icPages = s.icPages := by
  unfold captureHold; split <;> rfl
@[simp] theorem captureHold_icWords : (captureHold s c).icWords = s.icWords := by
  unfold captureHold; split <;> rfl
@[simp] theorem captureHold_linkAdrs : (captureHold s c).linkAdrs = s.linkAdrs := by
  unfold captureHold; split <;> rfl
@[simp] theorem captureHold_linkMask : (captureHold s c).linkMask = s.linkMask := by
  unfold captureHold; split <;> rfl
@[simp] theorem captureHold_wbuf : (captureHold s c).wbuf = s.wbuf := by
  unfold captureHold; split <;> rfl
@[simp] theorem captureHold_fmJobs : (captureHold s c).fmJobs = s.fmJobs := by
  unfold captureHold; split <;> rfl
@[simp] theorem captureHold_lsu : (captureHold s c).lsu = s.lsu := by
  unfold captureHold; split <;> rfl
@[simp] theorem captureHold_cssq : (captureHold s c).cssq = s.cssq := by
  unfold captureHold; split <;> rfl
@[simp] theorem captureHold_q1 : (captureHold s c).q1 = s.q1 := by
  unfold captureHold; split <;> rfl
@[simp] theorem captureHold_q2 : (captureHold s c).q2 = s.q2 := by
  unfold captureHold; split <;> rfl
@[simp] theorem captureHold_residue : (captureHold s c).residue = s.residue := by
  unfold captureHold; split <;> rfl
@[simp] theorem captureHold_rxbusy : (captureHold s c).rxbusy = s.rxbusy := by
  unfold captureHold; split <;> rfl
@[simp] theorem captureHold_rxfull : (captureHold s c).rxfull = s.rxfull := by
  unfold captureHold; split <;> rfl
@[simp] theorem captureHold_txbusy : (captureHold s c).txbusy = s.txbusy := by
  unfold captureHold; split <;> rfl
@[simp] theorem captureHold_txfull : (captureHold s c).txfull = s.txfull := by
  unfold captureHold; split <;> rfl
@[simp] theorem captureHold_rxIdx : (captureHold s c).rxIdx = s.rxIdx := by
  unfold captureHold; split <;> rfl
@[simp] theorem captureHold_txIdx : (captureHold s c).txIdx = s.txIdx := by
  unfold captureHold; split <;> rfl
@[simp] theorem captureHold_rxCell : (captureHold s c).rxCell = s.rxCell := by
  unfold captureHold; split <;> rfl
@[simp] theorem captureHold_txCell : (captureHold s c).txCell = s.txCell := by
  unfold captureHold; split <;> rfl
@[simp] theorem captureHold_dma2Count : (captureHold s c).dma2Count = s.dma2Count := by
  unfold captureHold; split <;> rfl
@[simp] theorem captureHold_hecA : (captureHold s c).hecA = s.hecA := by
  unfold captureHold; split <;> rfl
@[simp] theorem captureHold_hecB : (captureHold s c).hecB = s.hecB := by
  unfold captureHold; split <;> rfl
@[simp] theorem captureHold_hecPhase : (captureHold s c).hecPhase = s.hecPhase := by
  unfold captureHold; split <;> rfl
@[simp] theorem captureHold_recs : (captureHold s c).recs = s.recs := by
  unfold captureHold; split <;> rfl
@[simp] theorem captureHold_plus : (captureHold s c).plus = s.plus := by
  unfold captureHold; split <;> rfl
@[simp] theorem captureHold_rlaPrev : (captureHold s c).rlaPrev = s.rlaPrev := by
  unfold captureHold; split <;> rfl
@[simp] theorem captureHold_rlaTrap : (captureHold s c).rlaTrap = s.rlaTrap := by
  unfold captureHold; split <;> rfl
@[simp] theorem captureHold_popcShadow : (captureHold s c).popcShadow = s.popcShadow := by
  unfold captureHold; split <;> rfl
@[simp] theorem captureHold_segBranch : (captureHold s c).segBranch = s.segBranch := by
  unfold captureHold; split <;> rfl
@[simp] theorem captureHold_popfAge : (captureHold s c).popfAge = s.popfAge := by
  unfold captureHold; split <;> rfl
@[simp] theorem captureHold_dmaLag : (captureHold s c).dmaLag = s.dmaLag := by
  unfold captureHold; split <;> rfl
@[simp] theorem captureHold_fm : (captureHold s c).fm = s.fm := by
  unfold captureHold; split <;> rfl
@[simp] theorem captureHold_cb : (captureHold s c).cb = s.cb := by
  unfold captureHold; split <;> rfl
@[simp] theorem captureHold_sb : (captureHold s c).sb = s.sb := by
  unfold captureHold; split <;> rfl
@[simp] theorem captureHold_p1 : (captureHold s c).p1 = s.p1 := by
  unfold captureHold; split <;> rfl
@[simp] theorem captureHold_p2b : (captureHold s c).p2b = s.p2b := by
  unfold captureHold; split <;> rfl
@[simp] theorem captureHold_p2n : (captureHold s c).p2n = s.p2n := by
  unfold captureHold; split <;> rfl
@[simp] theorem captureHold_icsi : (captureHold s c).icsi = s.icsi := by
  unfold captureHold; split <;> rfl
@[simp] theorem captureHold_icsiPrev : (captureHold s c).icsiPrev = s.icsiPrev := by
  unfold captureHold; split <;> rfl
@[simp] theorem captureHold_pitEdges0 : (captureHold s c).pitEdges0 = s.pitEdges0 := by
  unfold captureHold; split <;> rfl
@[simp] theorem captureHold_pitEdges1 : (captureHold s c).pitEdges1 = s.pitEdges1 := by
  unfold captureHold; split <;> rfl
@[simp] theorem captureHold_sent : (captureHold s c).sent = s.sent := by
  unfold captureHold; split <;> rfl
@[simp] theorem captureHold_stuck : (captureHold s c).stuck = s.stuck := by
  unfold captureHold; split <;> rfl
@[simp] theorem captureHold_agenda : (captureHold s c).agenda = s.agenda := by
  unfold captureHold; split <;> rfl
@[simp] theorem captureHold_turn : (captureHold s c).turn = s.turn := by
  unfold captureHold; split <;> rfl
@[simp] theorem captureHold_draws : (captureHold s c).draws = s.draws := by
  unfold captureHold; split <;> rfl
@[simp] theorem captureHold_holdX : (captureHold s c).holdX =
    if c.crcSel = .x then linkAddr s else s.holdX := by
  unfold captureHold; split <;> simp_all
@[simp] theorem captureHold_holdY : (captureHold s c).holdY =
    if c.crcSel = .y then linkAddr s else s.holdY := by
  unfold captureHold; split <;> simp_all
end

/-! ### `setLink`: the link -/

section
variable (s : State) (r : Reg) (a : BitVec 20)
@[simp] theorem setLink_cfg : (setLink s r a).cfg = s.cfg := rfl
@[simp] theorem setLink_regs : (setLink s r a).regs = s.regs := rfl
@[simp] theorem setLink_mode : (setLink s r a).mode = s.mode := rfl
@[simp] theorem setLink_fifo : (setLink s r a).fifo = s.fifo := rfl
@[simp] theorem setLink_fifoWr : (setLink s r a).fifoWr = s.fifoWr := rfl
@[simp] theorem setLink_fifoRd : (setLink s r a).fifoRd = s.fifoRd := rfl
@[simp] theorem setLink_opts : (setLink s r a).opts = s.opts := rfl
@[simp] theorem setLink_cinBusy : (setLink s r a).cinBusy = s.cinBusy := rfl
@[simp] theorem setLink_coutRdy : (setLink s r a).coutRdy = s.coutRdy := rfl
@[simp] theorem setLink_cinLag : (setLink s r a).cinLag = s.cinLag := rfl
@[simp] theorem setLink_coutLag : (setLink s r a).coutLag = s.coutLag := rfl
@[simp] theorem setLink_pitInit0 : (setLink s r a).pitInit0 = s.pitInit0 := rfl
@[simp] theorem setLink_pitInit1 : (setLink s r a).pitInit1 = s.pitInit1 := rfl
@[simp] theorem setLink_ovf : (setLink s r a).ovf = s.ovf := rfl
@[simp] theorem setLink_acf : (setLink s r a).acf = s.acf := rfl
@[simp] theorem setLink_cmpState : (setLink s r a).cmpState = s.cmpState := rfl
@[simp] theorem setLink_pc : (setLink s r a).pc = s.pc := rfl
@[simp] theorem setLink_fq : (setLink s r a).fq = s.fq := rfl
@[simp] theorem setLink_ctag : (setLink s r a).ctag = s.ctag := rfl
@[simp] theorem setLink_icPages : (setLink s r a).icPages = s.icPages := rfl
@[simp] theorem setLink_icWords : (setLink s r a).icWords = s.icWords := rfl
@[simp] theorem setLink_holdX : (setLink s r a).holdX = s.holdX := rfl
@[simp] theorem setLink_holdY : (setLink s r a).holdY = s.holdY := rfl
@[simp] theorem setLink_wbuf : (setLink s r a).wbuf = s.wbuf := rfl
@[simp] theorem setLink_fmJobs : (setLink s r a).fmJobs = s.fmJobs := rfl
@[simp] theorem setLink_lsu : (setLink s r a).lsu = s.lsu := rfl
@[simp] theorem setLink_cssq : (setLink s r a).cssq = s.cssq := rfl
@[simp] theorem setLink_q1 : (setLink s r a).q1 = s.q1 := rfl
@[simp] theorem setLink_q2 : (setLink s r a).q2 = s.q2 := rfl
@[simp] theorem setLink_residue : (setLink s r a).residue = s.residue := rfl
@[simp] theorem setLink_rxbusy : (setLink s r a).rxbusy = s.rxbusy := rfl
@[simp] theorem setLink_rxfull : (setLink s r a).rxfull = s.rxfull := rfl
@[simp] theorem setLink_txbusy : (setLink s r a).txbusy = s.txbusy := rfl
@[simp] theorem setLink_txfull : (setLink s r a).txfull = s.txfull := rfl
@[simp] theorem setLink_rxIdx : (setLink s r a).rxIdx = s.rxIdx := rfl
@[simp] theorem setLink_txIdx : (setLink s r a).txIdx = s.txIdx := rfl
@[simp] theorem setLink_rxCell : (setLink s r a).rxCell = s.rxCell := rfl
@[simp] theorem setLink_txCell : (setLink s r a).txCell = s.txCell := rfl
@[simp] theorem setLink_dma2Count : (setLink s r a).dma2Count = s.dma2Count := rfl
@[simp] theorem setLink_hecA : (setLink s r a).hecA = s.hecA := rfl
@[simp] theorem setLink_hecB : (setLink s r a).hecB = s.hecB := rfl
@[simp] theorem setLink_hecPhase : (setLink s r a).hecPhase = s.hecPhase := rfl
@[simp] theorem setLink_recs : (setLink s r a).recs = s.recs := rfl
@[simp] theorem setLink_plus : (setLink s r a).plus = s.plus := rfl
@[simp] theorem setLink_rlaPrev : (setLink s r a).rlaPrev = s.rlaPrev := rfl
@[simp] theorem setLink_rlaTrap : (setLink s r a).rlaTrap = s.rlaTrap := rfl
@[simp] theorem setLink_popcShadow : (setLink s r a).popcShadow = s.popcShadow := rfl
@[simp] theorem setLink_segBranch : (setLink s r a).segBranch = s.segBranch := rfl
@[simp] theorem setLink_popfAge : (setLink s r a).popfAge = s.popfAge := rfl
@[simp] theorem setLink_dmaLag : (setLink s r a).dmaLag = s.dmaLag := rfl
@[simp] theorem setLink_fm : (setLink s r a).fm = s.fm := rfl
@[simp] theorem setLink_cb : (setLink s r a).cb = s.cb := rfl
@[simp] theorem setLink_sb : (setLink s r a).sb = s.sb := rfl
@[simp] theorem setLink_p1 : (setLink s r a).p1 = s.p1 := rfl
@[simp] theorem setLink_p2b : (setLink s r a).p2b = s.p2b := rfl
@[simp] theorem setLink_p2n : (setLink s r a).p2n = s.p2n := rfl
@[simp] theorem setLink_icsi : (setLink s r a).icsi = s.icsi := rfl
@[simp] theorem setLink_icsiPrev : (setLink s r a).icsiPrev = s.icsiPrev := rfl
@[simp] theorem setLink_pitEdges0 : (setLink s r a).pitEdges0 = s.pitEdges0 := rfl
@[simp] theorem setLink_pitEdges1 : (setLink s r a).pitEdges1 = s.pitEdges1 := rfl
@[simp] theorem setLink_sent : (setLink s r a).sent = s.sent := rfl
@[simp] theorem setLink_stuck : (setLink s r a).stuck = s.stuck := rfl
@[simp] theorem setLink_agenda : (setLink s r a).agenda = s.agenda := rfl
@[simp] theorem setLink_turn : (setLink s r a).turn = s.turn := rfl
@[simp] theorem setLink_draws : (setLink s r a).draws = s.draws := rfl
end

/-! ### `loadShadow`: the load of R58 by a linked LMFM -/

section
variable (s : State) (v : Half)

@[simp] theorem loadShadow_regs : (loadShadow s v).regs = s.regs.set 58 (v &&& 0x0FFF) := rfl
@[simp] theorem loadShadow_cfg : (loadShadow s v).cfg = s.cfg := rfl
@[simp] theorem loadShadow_mode : (loadShadow s v).mode = s.mode := rfl
@[simp] theorem loadShadow_fifo : (loadShadow s v).fifo = s.fifo := rfl
@[simp] theorem loadShadow_fifoWr : (loadShadow s v).fifoWr = s.fifoWr := rfl
@[simp] theorem loadShadow_fifoRd : (loadShadow s v).fifoRd = s.fifoRd := rfl
@[simp] theorem loadShadow_opts : (loadShadow s v).opts = s.opts := rfl
@[simp] theorem loadShadow_cinBusy : (loadShadow s v).cinBusy = s.cinBusy := rfl
@[simp] theorem loadShadow_coutRdy : (loadShadow s v).coutRdy = s.coutRdy := rfl
@[simp] theorem loadShadow_cinLag : (loadShadow s v).cinLag = s.cinLag := rfl
@[simp] theorem loadShadow_coutLag : (loadShadow s v).coutLag = s.coutLag := rfl
@[simp] theorem loadShadow_pitInit0 : (loadShadow s v).pitInit0 = s.pitInit0 := rfl
@[simp] theorem loadShadow_pitInit1 : (loadShadow s v).pitInit1 = s.pitInit1 := rfl
@[simp] theorem loadShadow_ovf : (loadShadow s v).ovf = s.ovf := rfl
@[simp] theorem loadShadow_acf : (loadShadow s v).acf = s.acf := rfl
@[simp] theorem loadShadow_cmpState : (loadShadow s v).cmpState = s.cmpState := rfl
@[simp] theorem loadShadow_pc : (loadShadow s v).pc = s.pc := rfl
@[simp] theorem loadShadow_fq : (loadShadow s v).fq = s.fq := rfl
@[simp] theorem loadShadow_ctag : (loadShadow s v).ctag = s.ctag := rfl
@[simp] theorem loadShadow_icPages : (loadShadow s v).icPages = s.icPages := rfl
@[simp] theorem loadShadow_icWords : (loadShadow s v).icWords = s.icWords := rfl
@[simp] theorem loadShadow_holdX : (loadShadow s v).holdX = s.holdX := rfl
@[simp] theorem loadShadow_holdY : (loadShadow s v).holdY = s.holdY := rfl
@[simp] theorem loadShadow_wbuf : (loadShadow s v).wbuf = s.wbuf := rfl
@[simp] theorem loadShadow_fmJobs : (loadShadow s v).fmJobs = s.fmJobs := rfl
@[simp] theorem loadShadow_lsu : (loadShadow s v).lsu = s.lsu := rfl
@[simp] theorem loadShadow_cssq : (loadShadow s v).cssq = s.cssq := rfl
@[simp] theorem loadShadow_q1 : (loadShadow s v).q1 = s.q1 := rfl
@[simp] theorem loadShadow_q2 : (loadShadow s v).q2 = s.q2 := rfl
@[simp] theorem loadShadow_residue : (loadShadow s v).residue = s.residue := rfl
@[simp] theorem loadShadow_rxbusy : (loadShadow s v).rxbusy = s.rxbusy := rfl
@[simp] theorem loadShadow_rxfull : (loadShadow s v).rxfull = s.rxfull := rfl
@[simp] theorem loadShadow_txbusy : (loadShadow s v).txbusy = s.txbusy := rfl
@[simp] theorem loadShadow_txfull : (loadShadow s v).txfull = s.txfull := rfl
@[simp] theorem loadShadow_rxIdx : (loadShadow s v).rxIdx = s.rxIdx := rfl
@[simp] theorem loadShadow_txIdx : (loadShadow s v).txIdx = s.txIdx := rfl
@[simp] theorem loadShadow_rxCell : (loadShadow s v).rxCell = s.rxCell := rfl
@[simp] theorem loadShadow_txCell : (loadShadow s v).txCell = s.txCell := rfl
@[simp] theorem loadShadow_dma2Count : (loadShadow s v).dma2Count = s.dma2Count := rfl
@[simp] theorem loadShadow_hecA : (loadShadow s v).hecA = s.hecA := rfl
@[simp] theorem loadShadow_hecB : (loadShadow s v).hecB = s.hecB := rfl
@[simp] theorem loadShadow_hecPhase : (loadShadow s v).hecPhase = s.hecPhase := rfl
@[simp] theorem loadShadow_plus : (loadShadow s v).plus = s.plus := rfl
@[simp] theorem loadShadow_rlaPrev : (loadShadow s v).rlaPrev = s.rlaPrev := rfl
@[simp] theorem loadShadow_rlaTrap : (loadShadow s v).rlaTrap = s.rlaTrap := rfl
@[simp] theorem loadShadow_popcShadow : (loadShadow s v).popcShadow = s.popcShadow := rfl
@[simp] theorem loadShadow_segBranch : (loadShadow s v).segBranch = s.segBranch := rfl
@[simp] theorem loadShadow_popfAge : (loadShadow s v).popfAge = s.popfAge := rfl
@[simp] theorem loadShadow_dmaLag : (loadShadow s v).dmaLag = s.dmaLag := rfl
@[simp] theorem loadShadow_fm : (loadShadow s v).fm = s.fm := rfl
@[simp] theorem loadShadow_cb : (loadShadow s v).cb = s.cb := rfl
@[simp] theorem loadShadow_sb : (loadShadow s v).sb = s.sb := rfl
@[simp] theorem loadShadow_p1 : (loadShadow s v).p1 = s.p1 := rfl
@[simp] theorem loadShadow_p2b : (loadShadow s v).p2b = s.p2b := rfl
@[simp] theorem loadShadow_p2n : (loadShadow s v).p2n = s.p2n := rfl
@[simp] theorem loadShadow_icsi : (loadShadow s v).icsi = s.icsi := rfl
@[simp] theorem loadShadow_icsiPrev : (loadShadow s v).icsiPrev = s.icsiPrev := rfl
@[simp] theorem loadShadow_pitEdges0 : (loadShadow s v).pitEdges0 = s.pitEdges0 := rfl
@[simp] theorem loadShadow_pitEdges1 : (loadShadow s v).pitEdges1 = s.pitEdges1 := rfl
@[simp] theorem loadShadow_sent : (loadShadow s v).sent = s.sent := rfl
@[simp] theorem loadShadow_stuck : (loadShadow s v).stuck = s.stuck := rfl
@[simp] theorem loadShadow_agenda : (loadShadow s v).agenda = s.agenda := rfl
@[simp] theorem loadShadow_turn : (loadShadow s v).turn = s.turn := rfl
@[simp] theorem loadShadow_draws : (loadShadow s v).draws = s.draws := rfl
@[simp] theorem loadShadow_linkAdrs : (loadShadow s v).linkAdrs = s.linkAdrs := rfl
@[simp] theorem loadShadow_linkMask : (loadShadow s v).linkMask = s.linkMask := rfl
end

/-- The record that the load of R58 by a linked LMFM leaves (70 R563(b); 42 R270). -/
theorem recOf_loadShadow (s : State) (v : Half) : recOf (loadShadow s v) (.reg 58) =
    some { key := .reg 58, old := s.regs[58], e := 0, x := 0, kind := .shadow } := by
  simp [recOf, loadShadow, addRec]

/-! ### `cbForget`: a Cell Buffer halfword becomes unwritten -/

section
variable (s : State) (t : Half)

@[simp] theorem cbForget_cfg : (cbForget s t).cfg = s.cfg := rfl
@[simp] theorem cbForget_regs : (cbForget s t).regs = s.regs := rfl
@[simp] theorem cbForget_mode : (cbForget s t).mode = s.mode := rfl
@[simp] theorem cbForget_fifo : (cbForget s t).fifo = s.fifo := rfl
@[simp] theorem cbForget_fifoWr : (cbForget s t).fifoWr = s.fifoWr := rfl
@[simp] theorem cbForget_fifoRd : (cbForget s t).fifoRd = s.fifoRd := rfl
@[simp] theorem cbForget_opts : (cbForget s t).opts = s.opts := rfl
@[simp] theorem cbForget_cinBusy : (cbForget s t).cinBusy = s.cinBusy := rfl
@[simp] theorem cbForget_coutRdy : (cbForget s t).coutRdy = s.coutRdy := rfl
@[simp] theorem cbForget_cinLag : (cbForget s t).cinLag = s.cinLag := rfl
@[simp] theorem cbForget_coutLag : (cbForget s t).coutLag = s.coutLag := rfl
@[simp] theorem cbForget_pitInit0 : (cbForget s t).pitInit0 = s.pitInit0 := rfl
@[simp] theorem cbForget_pitInit1 : (cbForget s t).pitInit1 = s.pitInit1 := rfl
@[simp] theorem cbForget_ovf : (cbForget s t).ovf = s.ovf := rfl
@[simp] theorem cbForget_acf : (cbForget s t).acf = s.acf := rfl
@[simp] theorem cbForget_cmpState : (cbForget s t).cmpState = s.cmpState := rfl
@[simp] theorem cbForget_pc : (cbForget s t).pc = s.pc := rfl
@[simp] theorem cbForget_fq : (cbForget s t).fq = s.fq := rfl
@[simp] theorem cbForget_ctag : (cbForget s t).ctag = s.ctag := rfl
@[simp] theorem cbForget_icPages : (cbForget s t).icPages = s.icPages := rfl
@[simp] theorem cbForget_icWords : (cbForget s t).icWords = s.icWords := rfl
@[simp] theorem cbForget_holdX : (cbForget s t).holdX = s.holdX := rfl
@[simp] theorem cbForget_holdY : (cbForget s t).holdY = s.holdY := rfl
@[simp] theorem cbForget_wbuf : (cbForget s t).wbuf = s.wbuf := rfl
@[simp] theorem cbForget_fmJobs : (cbForget s t).fmJobs = s.fmJobs := rfl
@[simp] theorem cbForget_lsu : (cbForget s t).lsu = s.lsu := rfl
@[simp] theorem cbForget_cssq : (cbForget s t).cssq = s.cssq := rfl
@[simp] theorem cbForget_q1 : (cbForget s t).q1 = s.q1 := rfl
@[simp] theorem cbForget_q2 : (cbForget s t).q2 = s.q2 := rfl
@[simp] theorem cbForget_residue : (cbForget s t).residue = s.residue := rfl
@[simp] theorem cbForget_rxbusy : (cbForget s t).rxbusy = s.rxbusy := rfl
@[simp] theorem cbForget_rxfull : (cbForget s t).rxfull = s.rxfull := rfl
@[simp] theorem cbForget_txbusy : (cbForget s t).txbusy = s.txbusy := rfl
@[simp] theorem cbForget_txfull : (cbForget s t).txfull = s.txfull := rfl
@[simp] theorem cbForget_rxIdx : (cbForget s t).rxIdx = s.rxIdx := rfl
@[simp] theorem cbForget_txIdx : (cbForget s t).txIdx = s.txIdx := rfl
@[simp] theorem cbForget_rxCell : (cbForget s t).rxCell = s.rxCell := rfl
@[simp] theorem cbForget_txCell : (cbForget s t).txCell = s.txCell := rfl
@[simp] theorem cbForget_dma2Count : (cbForget s t).dma2Count = s.dma2Count := rfl
@[simp] theorem cbForget_hecA : (cbForget s t).hecA = s.hecA := rfl
@[simp] theorem cbForget_hecB : (cbForget s t).hecB = s.hecB := rfl
@[simp] theorem cbForget_hecPhase : (cbForget s t).hecPhase = s.hecPhase := rfl
@[simp] theorem cbForget_recs : (cbForget s t).recs = s.recs := rfl
@[simp] theorem cbForget_plus : (cbForget s t).plus = s.plus := rfl
@[simp] theorem cbForget_rlaPrev : (cbForget s t).rlaPrev = s.rlaPrev := rfl
@[simp] theorem cbForget_rlaTrap : (cbForget s t).rlaTrap = s.rlaTrap := rfl
@[simp] theorem cbForget_popcShadow : (cbForget s t).popcShadow = s.popcShadow := rfl
@[simp] theorem cbForget_segBranch : (cbForget s t).segBranch = s.segBranch := rfl
@[simp] theorem cbForget_popfAge : (cbForget s t).popfAge = s.popfAge := rfl
@[simp] theorem cbForget_dmaLag : (cbForget s t).dmaLag = s.dmaLag := rfl
@[simp] theorem cbForget_fm : (cbForget s t).fm = s.fm := rfl
@[simp] theorem cbForget_sb : (cbForget s t).sb = s.sb := rfl
@[simp] theorem cbForget_p1 : (cbForget s t).p1 = s.p1 := rfl
@[simp] theorem cbForget_p2b : (cbForget s t).p2b = s.p2b := rfl
@[simp] theorem cbForget_p2n : (cbForget s t).p2n = s.p2n := rfl
@[simp] theorem cbForget_icsi : (cbForget s t).icsi = s.icsi := rfl
@[simp] theorem cbForget_icsiPrev : (cbForget s t).icsiPrev = s.icsiPrev := rfl
@[simp] theorem cbForget_pitEdges0 : (cbForget s t).pitEdges0 = s.pitEdges0 := rfl
@[simp] theorem cbForget_pitEdges1 : (cbForget s t).pitEdges1 = s.pitEdges1 := rfl
@[simp] theorem cbForget_sent : (cbForget s t).sent = s.sent := rfl
@[simp] theorem cbForget_stuck : (cbForget s t).stuck = s.stuck := rfl
@[simp] theorem cbForget_agenda : (cbForget s t).agenda = s.agenda := rfl
@[simp] theorem cbForget_turn : (cbForget s t).turn = s.turn := rfl
@[simp] theorem cbForget_draws : (cbForget s t).draws = s.draws := rfl
@[simp] theorem cbForget_linkAdrs : (cbForget s t).linkAdrs = s.linkAdrs := rfl
@[simp] theorem cbForget_linkMask : (cbForget s t).linkMask = s.linkMask := rfl
end

/-- A forgotten halfword holds nothing, and no other byte changes (92 D55). -/
theorem read_cbForget (s : State) (t : Half) (a : Nat) :
    Memory.read (cbForget s t).cb a =
      if a = cbPhys t ∨ a = cbPhys t + 1 then none else Memory.read s.cb a := by
  simp only [cbForget, Memory.read_erase]
  by_cases h : a = cbPhys t <;> by_cases k : a = cbPhys t + 1 <;> simp [h, k]

theorem readHalf_cbForget (s : State) (t : Half) : readHalf (cbForget s t).cb (cbPhys t) = none := by
  simp [readHalf, read_cbForget]

end Sys2Proof.Machine
end

