-- ==== Sys2Proof/Laws/Runs.lean ====
section
/-!
SUPPORT. When the instructions of a family complete, and what their next state is: the passing of an
instruction, register writes, and the ALU family.
-/
namespace Sys2Proof.Machine

/-! ### The passing of an instruction -/

/-- The increments that ripen change no register but their own. -/
theorem ripen_other {r : Reg} : ∀ (l : List PlusInc) (s : State), (∀ p ∈ l, p.r ≠ r) →
    (ripen s l).regs[r] = s.regs[r]
  | [], _, _ => rfl
  | p :: l, s, h => by
    have h1 : p.r ≠ r := h p (by simp)
    have h2 : ∀ q ∈ l, q.r ≠ r := fun q hq => h q (List.mem_cons_of_mem _ hq)
    unfold ripen
    split
    · rw [ripen_other l _ h2, setReg_regs]
      exact Vector.getElem_set_ne _ _ (fun e => h1 (Fin.ext e))
    · exact ripen_other l s h2

/-- A register without a pending increment survives the passing of an instruction. -/
theorem tick_reg {s : State} {d : Done} {r : Reg} (h : ∀ p ∈ s.plus, p.r ≠ r) :
    (tick s d).regs[r] = s.regs[r] := ripen_other _ _ h

/-- Under the form of the pending increments, no register but R48 to R51 has one. -/
theorem PendingForm.no_plus {s : State} (h : PendingForm s) {r : Reg}
    (hr : r.val < 48 ∨ 51 < r.val) : ∀ p ∈ s.plus, p.r ≠ r := by
  intro p hp e
  have := h.1 p hp
  subst e
  omega

theorem plusOf_none {s : State} {r : Reg} (h : plusOf s r = none) : ∀ p ∈ s.plus, p.r ≠ r := by
  unfold plusOf at h
  rw [List.find?_eq_none] at h
  simpa using h

/-- What a passed destination check gives. -/
theorem destCheck_plus {s : State} {r : Reg} (h : destCheck s r = .ok ()) :
    r ≠ 61 ∧ ∀ p ∈ s.plus, p.r ≠ r := by
  unfold destCheck at h
  obtain ⟨h1, h⟩ := seq_ok.1 h
  obtain ⟨_, h⟩ := seq_ok.1 h
  obtain ⟨h2, _⟩ := seq_ok.1 h
  refine ⟨by simpa using raiseIf_ok.1 h1, plusOf_none ?_⟩
  simpa using raiseIf_ok.1 h2

/-! ### Register writes -/

/-- A cell rewritten with what it holds. -/
theorem regs_set_self (g : Vector Half 64) (k : Nat) (h : k < 64) : g.set k g[k] h = g :=
  Vector.set_getElem_self h

/-- What a register write leaves in the cells, but for the CSS reset (10 R28). -/
theorem writeReg_regs {w s : State} {r : Reg} {v : Half} (h : cssResets r v = false) :
    (writeReg w s r v).regs = s.regs.set r (storedAs s r v) := by
  obtain ⟨k, hk⟩ := r
  unfold writeReg
  dsimp only
  split
  all_goals first
    | rfl
    | exact (regs_set_self s.regs _ _).symm
    | (split <;> rfl)
    | (unfold writeFifo; dsimp only; split <;> exact (regs_set_self s.regs 43 _).symm)
    | (unfold writeFmData; split <;> rfl)
    | skip
  · unfold writeEvent storedAs
    dsimp only
    split
    · exact (regs_set_self s.regs 57 _).symm
    · rfl
  · have hc : v.getLsbD 14 = false := by simpa [cssResets] using h
    unfold writeCss
    rw [hc]
    rfl
  · have e : storedAs s ⟨k, hk⟩ v = v := by
      unfold storedAs
      dsimp only
      split <;> first | rfl | contradiction
    rw [e]
    rfl

/-- The CSS reset leaves R60 written and R61 open (43 R299). -/
theorem writeReg_reset {w s : State} {v : Half} (h : cssResets 60 v = true) :
    (writeReg w s 60 v).regs =
      (s.regs.set 60 (storedAs s 60 v)).set 61 ((draw (setRec s 60 (v &&& 0xFF00)) 9) &&& 0x3FFF) := by
  have hc : v.getLsbD 14 = true := by simpa [cssResets] using h
  change (writeCss s v).regs = _
  unfold writeCss
  rw [hc]
  rfl

theorem cssResets_eq {r : Reg} {v : Half} (h : cssResets r v = true) : r = 60 := by
  unfold cssResets at h
  simp only [Bool.and_eq_true, beq_iff_eq] at h
  exact h.1

/-- The destination of a register write holds what its write side keeps. -/
theorem writeReg_dest (w s : State) (r : Reg) (v : Half) :
    (writeReg w s r v).regs[r] = storedAs s r v := by
  cases h : cssResets r v
  · rw [writeReg_regs h]
    exact Vector.getElem_set_self ..
  · obtain rfl := cssResets_eq h
    rw [writeReg_reset h]
    exact (Vector.getElem_set_ne _ _ (by decide)).trans (Vector.getElem_set_self ..)

/-- A register write changes no cell but its own, and R61 with the CSS reset. -/
theorem writeReg_other (w s : State) {r q : Reg} (v : Half)
    (h : q ∉ (if cssResets r v then [r, 61] else [r])) :
    (writeReg w s r v).regs[q] = s.regs[q] := by
  cases hc : cssResets r v
  · rw [hc] at h
    rw [writeReg_regs hc]
    have : q ≠ r := by simpa using h
    exact Vector.getElem_set_ne _ _ (fun e => this (Fin.ext e.symm))
  · rw [hc] at h
    obtain rfl := cssResets_eq hc
    rw [writeReg_reset hc]
    have h' : q ≠ 60 ∧ q ≠ 61 := by simpa using h
    exact (Vector.getElem_set_ne _ _ (fun e => h'.2 (Fin.ext e.symm))).trans
      (Vector.getElem_set_ne _ _ (fun e => h'.1 (Fin.ext e.symm)))

/-- A register write without the CSS reset leaves ACF and the Scoreboard alone. -/
theorem writeReg_flags {w s : State} {r : Reg} {v : Half} (h : cssResets r v = false) :
    (writeReg w s r v).acf = s.acf ∧ (writeReg w s r v).sb = s.sb := by
  obtain ⟨k, hk⟩ := r
  unfold writeReg
  dsimp only
  split
  all_goals first
    | exact ⟨rfl, rfl⟩
    | (split <;> exact ⟨rfl, rfl⟩)
    | (unfold writeFifo; dsimp only; split <;> exact ⟨rfl, rfl⟩)
    | (unfold writeFmData; split <;> exact ⟨rfl, rfl⟩)
    | (unfold writeEvent; dsimp only; split <;> exact ⟨rfl, rfl⟩)
    | skip
  have hc : v.getLsbD 14 = false := by simpa [cssResets] using h
  unfold writeCss
  rw [hc]
  exact ⟨rfl, rfl⟩

/-- A write of a plain destination changes its cell and the write-delay records only. -/
theorem writeReg_plain {w s : State} {r : Reg} {v : Half} (h : PlainDest r) :
    writeReg w s r v = { s with regs := (writeReg w s r v).regs,
                                recs := (writeReg w s r v).recs } := by
  obtain ⟨k, hk⟩ := r
  have hn : k ≠ 32 ∧ k ≠ 33 ∧ k ≠ 40 ∧ k ≠ 42 ∧ k ≠ 43 ∧ k ≠ 54 ∧ k ≠ 55 ∧ k ≠ 60 ∧ k ≠ 62 := by
    obtain ⟨h1, h2, h3, h4, h5, h6, h7, h8, h9⟩ := h
    exact ⟨fun e => h1 (Fin.ext e), fun e => h2 (Fin.ext e), fun e => h3 (Fin.ext e),
      fun e => h4 (Fin.ext e), fun e => h5 (Fin.ext e), fun e => h6 (Fin.ext e),
      fun e => h7 (Fin.ext e), fun e => h8 (Fin.ext e), fun e => h9 (Fin.ext e)⟩
  unfold writeReg
  dsimp only
  split
  all_goals first
    | rfl
    | (exfalso; omega)
    | (unfold writeFmData; split <;> rfl)
    | (unfold writeEvent; dsimp only; split <;> rfl)

section
variable {w s : State} {r : Reg} {v : Half} (h : PlainDest r)
include h
theorem writeReg_plain_mode : (writeReg w s r v).mode = s.mode := by
  rw [writeReg_plain h]
theorem writeReg_plain_fifo : (writeReg w s r v).fifo = s.fifo := by
  rw [writeReg_plain h]
theorem writeReg_plain_fifoWr : (writeReg w s r v).fifoWr = s.fifoWr := by
  rw [writeReg_plain h]
theorem writeReg_plain_opts : (writeReg w s r v).opts = s.opts := by
  rw [writeReg_plain h]
theorem writeReg_plain_coutRdy : (writeReg w s r v).coutRdy = s.coutRdy := by
  rw [writeReg_plain h]
theorem writeReg_plain_coutLag : (writeReg w s r v).coutLag = s.coutLag := by
  rw [writeReg_plain h]
theorem writeReg_plain_pitInit0 : (writeReg w s r v).pitInit0 = s.pitInit0 := by
  rw [writeReg_plain h]
theorem writeReg_plain_pitInit1 : (writeReg w s r v).pitInit1 = s.pitInit1 := by
  rw [writeReg_plain h]
theorem writeReg_plain_acf : (writeReg w s r v).acf = s.acf := by
  rw [writeReg_plain h]
theorem writeReg_plain_sb : (writeReg w s r v).sb = s.sb := by
  rw [writeReg_plain h]
theorem writeReg_plain_hecA : (writeReg w s r v).hecA = s.hecA := by
  rw [writeReg_plain h]
theorem writeReg_plain_hecB : (writeReg w s r v).hecB = s.hecB := by
  rw [writeReg_plain h]
theorem writeReg_plain_hecPhase : (writeReg w s r v).hecPhase = s.hecPhase := by
  rw [writeReg_plain h]
theorem writeReg_plain_rxIdx : (writeReg w s r v).rxIdx = s.rxIdx := by
  rw [writeReg_plain h]
theorem writeReg_plain_rxbusy : (writeReg w s r v).rxbusy = s.rxbusy := by
  rw [writeReg_plain h]
theorem writeReg_plain_rxfull : (writeReg w s r v).rxfull = s.rxfull := by
  rw [writeReg_plain h]
theorem writeReg_plain_txIdx : (writeReg w s r v).txIdx = s.txIdx := by
  rw [writeReg_plain h]
theorem writeReg_plain_txbusy : (writeReg w s r v).txbusy = s.txbusy := by
  rw [writeReg_plain h]
theorem writeReg_plain_txfull : (writeReg w s r v).txfull = s.txfull := by
  rw [writeReg_plain h]
end

/-- What a write keeps depends on the registers it is merged with. -/
theorem storedAs_congr {s t : State} {r : Reg} {v : Half}
    (hr : ∀ q : Reg, (q = r ∨ q = 57 ∨ q = 63) → t.regs[q] = s.regs[q])
    (h1 : t.icsi = s.icsi) (h2 : t.icsiPrev = s.icsiPrev) : storedAs t r v = storedAs s r v := by
  have h57 : t.regs[57] = s.regs[57] := hr 57 (by simp)
  have h63 : t.regs[63] = s.regs[63] := hr 63 (by simp)
  have hself := hr r (by simp)
  have hs : ∀ b, heldSet t b = heldSet s b := by
    intro b
    unfold heldSet
    rw [h1, h2, h63]
  obtain ⟨k, hk⟩ := r
  unfold storedAs
  dsimp only
  split
  all_goals first
    | rfl
    | exact hself
    | skip
  · rw [h57, hs]
  · rw [h63]

/-! ### The frames -/

theorem follows_advance {s t : State} (q : List (BitVec 17 × FlowTag)) (h : t.pc = s.pc) :
    Follows s (advance t q) q := by
  cases q with
  | nil => exact ⟨congrArg (· + 1) h, rfl, rfl⟩
  | cons c q => exact ⟨rfl, rfl, rfl⟩

theorem readEffects_cinBusy (s : State) (l : List Reg) :
    (readEffects s l).cinBusy = cinAfter s l := by
  unfold readEffects cinAfter
  by_cases h : 40 ∈ l
  · simp [h]
  · simp [h]

theorem ageJob_timeless (acc : List Reg) (j : LmfmJob) :
    (ageJob acc j).timeless = j.timeless := rfl

theorem sameJobs_age {s t : State} {acc : List Reg} (h : t.fmJobs = s.fmJobs.map (ageJob acc)) :
    SameJobs s t := by
  unfold SameJobs
  rw [h, List.map_map]
  rfl

/-! ### The ALU family -/

/-- The state an ALU instruction's destination write starts from. -/
def aluMid (s : State) (o : AluOp) : State :=
  let t := readEffects (tick s { acc := aluRegs s o }) o.srcs
  { t with ovf := o.ovf.getD t.ovf, cmpState := o.cmp.getD t.cmpState }

theorem aluNext_eq (s : State) (o : AluOp) :
    aluNext s o = advance (aluWrite s (aluMid s o) o) (aluNextQueue s o.branch) := rfl

section
variable (s : State) (o : AluOp)
@[simp] theorem aluMid_cfg : (aluMid s o).cfg = s.cfg := by simp [aluMid]
@[simp] theorem aluMid_regs : (aluMid s o).regs = (ripen s s.plus).regs := by simp [aluMid]
@[simp] theorem aluMid_ovf : (aluMid s o).ovf = o.ovf.getD s.ovf := by simp [aluMid]
@[simp] theorem aluMid_cmpState : (aluMid s o).cmpState = o.cmp.getD s.cmpState := by simp [aluMid]
@[simp] theorem aluMid_acf : (aluMid s o).acf = s.acf := by simp [aluMid]
@[simp] theorem aluMid_pc : (aluMid s o).pc = s.pc := by simp [aluMid]
@[simp] theorem aluMid_wbuf : (aluMid s o).wbuf = s.wbuf := by simp [aluMid]
@[simp] theorem aluMid_cinBusy : (aluMid s o).cinBusy = cinAfter s o.srcs := by
  simp [aluMid, readEffects_cinBusy, cinAfter]
@[simp] theorem aluMid_fmJobs :
    (aluMid s o).fmJobs = s.fmJobs.map (ageJob (aluRegs s o)) := by simp [aluMid]
@[simp] theorem aluMid_mode : (aluMid s o).mode = s.mode := by simp [aluMid]
@[simp] theorem aluMid_fifo : (aluMid s o).fifo = s.fifo := by simp [aluMid]
@[simp] theorem aluMid_fifoWr : (aluMid s o).fifoWr = s.fifoWr := by simp [aluMid]
@[simp] theorem aluMid_fifoRd : (aluMid s o).fifoRd = s.fifoRd := by simp [aluMid]
@[simp] theorem aluMid_opts : (aluMid s o).opts = s.opts := by simp [aluMid]
@[simp] theorem aluMid_coutRdy : (aluMid s o).coutRdy = s.coutRdy := by simp [aluMid]
@[simp] theorem aluMid_pitInit0 : (aluMid s o).pitInit0 = s.pitInit0 := by simp [aluMid]
@[simp] theorem aluMid_pitInit1 : (aluMid s o).pitInit1 = s.pitInit1 := by simp [aluMid]
@[simp] theorem aluMid_fq : (aluMid s o).fq = s.fq := by simp [aluMid]
@[simp] theorem aluMid_ctag : (aluMid s o).ctag = s.ctag := by simp [aluMid]
@[simp] theorem aluMid_icPages : (aluMid s o).icPages = s.icPages := by simp [aluMid]
@[simp] theorem aluMid_icWords : (aluMid s o).icWords = s.icWords := by simp [aluMid]
@[simp] theorem aluMid_linkAdrs : (aluMid s o).linkAdrs = s.linkAdrs := by simp [aluMid]
@[simp] theorem aluMid_linkMask : (aluMid s o).linkMask = s.linkMask := by simp [aluMid]
@[simp] theorem aluMid_holdX : (aluMid s o).holdX = s.holdX := by simp [aluMid]
@[simp] theorem aluMid_holdY : (aluMid s o).holdY = s.holdY := by simp [aluMid]
@[simp] theorem aluMid_lsu : (aluMid s o).lsu = s.lsu := by simp [aluMid]
@[simp] theorem aluMid_cssq : (aluMid s o).cssq = s.cssq := by simp [aluMid]
@[simp] theorem aluMid_q1 : (aluMid s o).q1 = s.q1 := by simp [aluMid]
@[simp] theorem aluMid_q2 : (aluMid s o).q2 = s.q2 := by simp [aluMid]
@[simp] theorem aluMid_residue : (aluMid s o).residue = s.residue := by simp [aluMid]
@[simp] theorem aluMid_rxbusy : (aluMid s o).rxbusy = s.rxbusy := by simp [aluMid]
@[simp] theorem aluMid_rxfull : (aluMid s o).rxfull = s.rxfull := by simp [aluMid]
@[simp] theorem aluMid_txbusy : (aluMid s o).txbusy = s.txbusy := by simp [aluMid]
@[simp] theorem aluMid_txfull : (aluMid s o).txfull = s.txfull := by simp [aluMid]
@[simp] theorem aluMid_rxIdx : (aluMid s o).rxIdx = s.rxIdx := by simp [aluMid]
@[simp] theorem aluMid_txIdx : (aluMid s o).txIdx = s.txIdx := by simp [aluMid]
@[simp] theorem aluMid_rxCell : (aluMid s o).rxCell = s.rxCell := by simp [aluMid]
@[simp] theorem aluMid_txCell : (aluMid s o).txCell = s.txCell := by simp [aluMid]
@[simp] theorem aluMid_dma2Count : (aluMid s o).dma2Count = s.dma2Count := by simp [aluMid]
@[simp] theorem aluMid_hecA : (aluMid s o).hecA = s.hecA := by simp [aluMid]
@[simp] theorem aluMid_hecB : (aluMid s o).hecB = s.hecB := by simp [aluMid]
@[simp] theorem aluMid_hecPhase : (aluMid s o).hecPhase = s.hecPhase := by simp [aluMid]
@[simp] theorem aluMid_fm : (aluMid s o).fm = s.fm := by simp [aluMid]
@[simp] theorem aluMid_cb : (aluMid s o).cb = s.cb := by simp [aluMid]
@[simp] theorem aluMid_sb : (aluMid s o).sb = s.sb := by simp [aluMid]
@[simp] theorem aluMid_p1 : (aluMid s o).p1 = s.p1 := by simp [aluMid]
@[simp] theorem aluMid_p2b : (aluMid s o).p2b = s.p2b := by simp [aluMid]
@[simp] theorem aluMid_p2n : (aluMid s o).p2n = s.p2n := by simp [aluMid]
@[simp] theorem aluMid_icsi : (aluMid s o).icsi = s.icsi := by simp [aluMid]
@[simp] theorem aluMid_icsiPrev : (aluMid s o).icsiPrev = s.icsiPrev := by simp [aluMid]
@[simp] theorem aluMid_pitEdges0 : (aluMid s o).pitEdges0 = s.pitEdges0 := by simp [aluMid]
@[simp] theorem aluMid_pitEdges1 : (aluMid s o).pitEdges1 = s.pitEdges1 := by simp [aluMid]
@[simp] theorem aluMid_sent : (aluMid s o).sent = s.sent := by simp [aluMid]
@[simp] theorem aluMid_stuck : (aluMid s o).stuck = s.stuck := by simp [aluMid]
@[simp] theorem aluMid_agenda : (aluMid s o).agenda = s.agenda := by simp [aluMid]
end

theorem raiseIf_false {c : Bool} {f : Fault} (h : c = false) : raiseIf c f = .ok () :=
  raiseIf_ok.2 h

theorem stallIf_false {c : Bool} (h : c = false) : stallIf c = .ok () := stallIf_ok.2 h

/-- A check made only under a condition. -/
theorem when_ok {β : Type} {c : Prop} [Decidable c] {x : Check Unit} {k : Check β} {b : β}
    (h : c → x = .ok ()) (hk : k = .ok b) : (if c then (do x; k) else k) = .ok b := by
  split
  · rename_i e
    exact seq_ok.2 ⟨h e, hk⟩
  · exact hk

/-- The same for the last check. -/
theorem last_ok {c : Prop} [Decidable c] {x : Check Unit} (h : c → x = .ok ()) :
    (if c then x else pure ()) = .ok () := by
  split
  · rename_i e
    exact h e
  · rfl

/-- The sequential advance is possible. -/
theorem advanceCheck_ok {s : State} (h : CanAdvance s) : advanceCheck s s.fq = .ok () := by
  unfold advanceCheck CanAdvance at *
  split
  · rename_i e
    have := h.1 e
    exact raiseIf_false (by simp only [decide_eq_false_iff_not]; omega)
  · rename_i e
    refine raiseIf_false ?_
    rcases h.2 _ (by rw [e]; rfl) with h | h <;> simp [h]

/-- The flow of an ALU instruction is possible. -/
theorem aluBranchCheck_ok {s : State} {b : Option (Bool × Bool)} (h : FlowReady s b) :
    aluBranchCheck s b = .ok () := by
  unfold aluBranchCheck
  cases b with
  | none => exact advanceCheck_ok h
  | some p =>
    obtain ⟨taken, ae⟩ := p
    obtain ⟨h1, h2⟩ := h
    refine seq_ok.2 ⟨raiseIf_false (by simp; omega), raiseIf_false ?_⟩
    cases taken <;> cases ae <;> simp_all

/-- An instruction that names R36 as a source sticks before it looks at anything else of it (10 R35). -/
theorem namedCheck_r36 (u : Use) (s : State) : namedCheck u s 36 = .error .stuck := by
  simp [namedCheck]
  rfl

/-- An instruction whose first source is R36 sticks, whatever the others are. -/
theorem sourceCheck_r36 (u : Use) (s : State) (l : List Reg) :
    sourceCheck u s (36 :: l) = .error .stuck := by
  show (do (do namedCheck u s 36; List.forM l (namedCheck u s)); fetchUse s; _) = _
  rw [namedCheck_r36]
  rfl

/-- The sources of an instruction pass their checks exactly when they are ready. -/
theorem sourceCheck_ok {u : Use} {s : State} {srcs : List Reg} :
    sourceCheck u s srcs = .ok () ↔ SourcesReady u s srcs := by
  unfold sourceCheck SourcesReady Readable readCheck
  constructor
  · intro h
    obtain ⟨h1, h⟩ := seq_ok.1 h
    obtain ⟨h2, h3⟩ := seq_ok.1 h
    exact ⟨h2, fun r hr => seq_ok.2 ⟨forM_ok.1 h1 r hr, forM_ok.1 h3 r hr⟩⟩
  · rintro ⟨h1, h2⟩
    exact seq_ok.2 ⟨forM_ok.2 fun r hr => (seq_ok.1 (h2 r hr)).1, seq_ok.2 ⟨h1,
      forM_ok.2 fun r hr => (seq_ok.1 (h2 r hr)).2⟩⟩

/-- A value that may be written is written outside the windows of the mode bits. -/
theorem writeUse_ok {s : State} {r : Reg} {v : Half} (h : writeCheck s r v = .ok ()) :
    writeUse s r = .ok () := by
  unfold writeUse
  unfold writeCheck at h
  split <;> rename_i e <;> try rfl
  all_goals
    rw [e] at h
    first
      | exact h
      | exact (seq_ok.1 h).1

/-- When an ALU instruction with a destination is ready, its checks pass. -/
theorem aluCheck_of_ready {s : State} {o : AluOp} {rd : Reg} (hrd : o.rd = some rd)
    (hpre : o.pre = .ok ()) (hval : o.value = .ok ()) (h : AluReady s o.srcs rd o.um o.res o.branch) :
    aluCheck s o = .ok () := by
  obtain ⟨h1, ⟨h61, hd, hw⟩, h3, h4⟩ := h
  unfold aluCheck
  refine seq_ok.2 ⟨hpre, seq_ok.2 ⟨raiseIf_false ?_, seq_ok.2 ⟨sourceCheck_ok.2 h1,
    when_ok (fun e => (h4 e).1) (seq_ok.2 ⟨?_, seq_ok.2 ⟨hval, seq_ok.2 ⟨?_, seq_ok.2
      ⟨aluBranchCheck_ok h3, ?_⟩⟩⟩⟩)⟩⟩⟩
  · rw [hrd]; simpa using h61
  · rw [hrd]; exact seq_ok.2 ⟨hd, writeUse_ok hw⟩
  · rw [hrd]; exact hw
  · rw [hrd]
    cases hu : o.um
    · rfl
    · obtain ⟨_, h5, h6⟩ := h4 hu
      exact seq_ok.2 ⟨raiseIf_false (by simpa using h5), stallIf_false (by simpa using h6)⟩

/-- What an ALU instruction with a destination does once its checks pass (40 R180). -/
theorem aluNext_done {s : State} {o : AluOp} {rd : Reg} (hp : PendingForm s) (hrd : o.rd = some rd)
    (hd : ∀ p ∈ s.plus, p.r ≠ rd) :
    AluDone s (aluNext s o) o.srcs rd o.um o.res o.branch ∧
      (aluNext s o).ovf = o.ovf.getD s.ovf ∧ (aluNext s o).cmpState = o.cmp.getD s.cmpState := by
  have hreg : ∀ q : Reg, (∀ p ∈ s.plus, p.r ≠ q) → (aluMid s o).regs[q] = s.regs[q] := by
    intro q hq
    rw [aluMid_regs]
    exact ripen_other _ _ hq
  have hst : storedAs (aluMid s o) rd o.res = storedAs s rd o.res := by
    refine storedAs_congr ?_ (by simp) (by simp)
    rintro q (rfl | rfl | rfl)
    · exact hreg _ hd
    · exact hreg _ (hp.no_plus (r := 57) (by decide))
    · exact hreg _ (hp.no_plus (r := 63) (by decide))
  have hw : aluWrite s (aluMid s o) o =
      if o.um then postWrite (writeReg s (aluMid s o) rd o.res) (umAddr s rd).toNat o.res
      else writeReg s (aluMid s o) rd o.res := by
    unfold aluWrite
    rw [hrd]
  have hwr : (aluWrite s (aluMid s o) o).regs = (writeReg s (aluMid s o) rd o.res).regs := by
    rw [hw]; split <;> simp
  rw [aluNext_eq]
  refine ⟨⟨?_, ?_, ?_, ?_, ?_, ?_, ?_, ?_, ?_, ?_⟩, ?_, ?_⟩
  · rw [advance_regs, hwr, writeReg_dest, hst]
  · intro q hq hqp
    rw [advance_regs, hwr, writeReg_other _ _ _ hq, hreg q hqp]
  · intro a
    rw [hw]
    split <;> simp
  · intro hc
    have := writeReg_flags (w := s) (s := aluMid s o) (r := rd) (v := o.res) hc
    constructor
    · intro a
      rw [hw]
      split <;> simp [this.2]
    · rw [hw]
      split <;> simp [this.1]
  · rw [hw]
    split <;> simp
  · refine sameJobs_age (acc := aluRegs s o) ?_
    rw [hw]
    split <;> simp
  · rw [hw]
    split <;> simp
  · exact follows_advance _ (by rw [hw]; split <;> simp)
  · rw [hw]
    split <;> apply State.ext <;> first | rfl | simp [passing]
  · intro hpl
    rw [hw]
    split <;> apply State.ext <;> first | rfl | simp [passing, writeReg_plain_mode hpl, writeReg_plain_fifo hpl, writeReg_plain_fifoWr hpl, writeReg_plain_opts hpl, writeReg_plain_coutRdy hpl, writeReg_plain_coutLag hpl, writeReg_plain_pitInit0 hpl, writeReg_plain_pitInit1 hpl, writeReg_plain_acf hpl, writeReg_plain_sb hpl, writeReg_plain_hecA hpl, writeReg_plain_hecB hpl, writeReg_plain_hecPhase hpl, writeReg_plain_rxIdx hpl, writeReg_plain_rxbusy hpl, writeReg_plain_rxfull hpl, writeReg_plain_txIdx hpl, writeReg_plain_txbusy hpl, writeReg_plain_txfull hpl]
  · rw [hw]
    split <;> simp
  · rw [hw]
    split <;> simp

/-- A ready ALU instruction with a destination completes with its effect. -/
theorem runAlu_ready {s : State} {o : AluOp} {rd : Reg} (hp : PendingForm s) (hrd : o.rd = some rd)
    (hpre : o.pre = .ok ()) (hval : o.value = .ok ())
    (h : AluReady s o.srcs rd o.um o.res o.branch) :
    ∃ t, runAlu s o = .next t ∧ AluDone s t o.srcs rd o.um o.res o.branch ∧
      t.ovf = o.ovf.getD s.ovf ∧ t.cmpState = o.cmp.getD s.cmpState :=
  ⟨_, runAlu_ok (aluCheck_of_ready hrd hpre hval h),
    aluNext_done hp hrd (destCheck_plus h.2.1.2.1).2⟩

/-- A ready compare instruction completes with its effect. -/
theorem runCompare_ready {s : State} {o : AluOp} {c : CmpState} (hrd : o.rd = none)
    (hum : o.um = false) (hpre : o.pre = .ok ()) (hval : o.value = .ok ()) (hovf : o.ovf = none) (hcmp : o.cmp = some c)
    (h : CompareReady s o.srcs o.branch) :
    ∃ t, runAlu s o = .next t ∧ CompareDone s t o.srcs c o.branch := by
  have hw : aluWrite s (aluMid s o) o = aluMid s o := by
    unfold aluWrite
    rw [hrd]
  refine ⟨_, runAlu_ok ?_, ?_⟩
  · unfold aluCheck
    refine seq_ok.2 ⟨hpre, seq_ok.2 ⟨raiseIf_false (by rw [hrd]; rfl), seq_ok.2 ⟨sourceCheck_ok.2 h.1,
      when_ok (fun e => absurd e (by simp [hum])) (seq_ok.2 ⟨?_, seq_ok.2 ⟨hval, seq_ok.2 ⟨?_,
        seq_ok.2 ⟨aluBranchCheck_ok h.2, ?_⟩⟩⟩⟩)⟩⟩⟩
    · rw [hrd]; rfl
    · rw [hrd]; rfl
    · rw [hum]
  · rw [aluNext_eq, hw]
    refine ⟨by simp [hcmp], by simp [hovf], ?_, ?_, ?_, by simp, follows_advance _ (by simp), ?_⟩
    · intro q _ hq
      rw [advance_regs, aluMid_regs]
      exact ripen_other _ _ hq
    · exact ⟨fun a => by simp, fun a => by simp⟩
    · exact sameJobs_age (acc := aluRegs s o) (by simp)
    · apply State.ext <;> first | rfl | simp [passing, hovf]

/-! ### The Branch family -/

theorem csoUse_ok {s : State} {c : Cso} (h : CsoReady s c) : csoUse s c = .ok () := by
  obtain ⟨h1, _⟩ := h
  cases c with
  | none => rfl
  | _ => exact h1.resolve_left (by simp)

theorem csoCheck_ok {s : State} {c : Cso} (h : CsoReady s c) : csoCheck s c = .ok () := by
  obtain ⟨_, h2⟩ := h
  cases c with
  | none => rfl
  | drxbusy => exact raiseIf_false (by simp at h2 ⊢; omega)
  | drxfull => exact raiseIf_false (by simp at h2 ⊢; omega)
  | itxbusy => exact raiseIf_false (by simpa using h2)
  | itxfull => exact raiseIf_false (by simpa using h2)

theorem branchCheck_of_ready {s : State} {link : Bool} {x : Target} {e : Fin 16} {sense c : Bool}
    {cso : Cso} (h : BranchReady s link x e sense c cso) :
    branchCheck s link x e sense c cso = .ok () := by
  obtain ⟨h0, h1, h2, h3, h53, h4, h5, h6⟩ := h
  have hs : shadowWait s x = .ok () := by
    unfold shadowWait
    cases x with
    | imm w => rfl
    | reg r =>
      refine stallIf_false ?_
      by_cases e : r = 58
      · subst e
        simp only [beq_self_eq_true, Bool.true_and, List.any_eq_false, Bool.and_eq_true,
          beq_iff_eq, not_and]
        exact fun j hj => h4 rfl j hj
      · simp [e]
  have hn : nullifyCheck s (e == 15) (branchTaken s e sense) c = .ok () := by
    unfold nullifyCheck
    split
    · rename_i hn
      rw [if_pos (by unfold nullified at hn; simpa using hn)] at h6
      exact h6.1
    · rfl
  have hf : branchFlowCheck s (e == 15) (branchTaken s e sense) c = .ok () := by
    unfold branchFlowCheck nullified inSegment
    cases hc : c <;> cases ht : branchTaken s e sense <;> by_cases he : e = 15 <;>
      simp [hc, ht, he] at h6 ⊢ <;> first
        | exact raiseIf_false (by simp; omega)
        | exact raiseIf_false (by have := h6.2 (by rw [← he]; exact ht); simp; omega)
  have ht : branchTaken s e sense = true → targetCheck s x = .ok () := by
    intro e
    cases x with
    | imm w => rfl
    | reg r => exact h3 r rfl e
  unfold branchCheck
  refine seq_ok.2 ⟨hs, seq_ok.2 ⟨h0, seq_ok.2 ⟨h1, seq_ok.2 ⟨csoUse_ok h2, ?_⟩⟩⟩⟩
  dsimp only
  refine when_ok ht (when_ok h53 (when_ok (fun e => ?_)
    (seq_ok.2 ⟨csoCheck_ok h2, seq_ok.2 ⟨hn, hf⟩⟩)))
  have e' := Bool.and_eq_true_iff.1 e
  exact h5 e'.2 e'.1

/-- The nullified word and the link write of a Branch instruction. -/
def branchMid (s u : State) (nul linked : Bool) : State :=
  let v := if nul then nullifyEffect s u else u
  if linked then writeLink s v nul else v

theorem branchNext_eq (s : State) (link : Bool) (x : Target) (e : Fin 16) (sense c : Bool)
    (cso : Cso) : branchNext s link x e sense c cso =
      advance (branchMid s
          { csoApply (tick s { acc := branchRegs (branchTaken s e sense) link x e cso }) cso with
            segBranch := segmentOff s && ! branchTaken s e sense }
          (nullified (e == 15) (branchTaken s e sense) c) (branchTaken s e sense && link))
        (branchQueue s (e == 15) (branchTaken s e sense) c (targetAddr s x)) := rfl

/-- What the nullified word and the link write change. -/
theorem branchMid_rest (s u : State) (nul linked : Bool) :
    branchMid s u nul linked = { u with
      cinBusy := if nul && namesComm s (nullifiedWord s) then false else u.cinBusy
      icPages := if nul then (recordFetch s (s.pc + 1)).icPages else u.icPages
      icWords := if nul then (recordFetch s (s.pc + 1)).icWords else u.icWords
      cinLag := (branchMid s u nul linked).cinLag
      regs := if linked then u.regs.set 59 (linkValue s) else u.regs
      recs := (branchMid s u nul linked).recs } := by
  cases nul <;> cases linked <;> unfold branchMid <;> apply State.ext <;>
    rfl

/-- What a Branch instruction's next state is (42 R260). -/
theorem branchNext_done (s : State) (link : Bool) (x : Target) (e : Fin 16) (sense c : Bool)
    (cso : Cso) : BranchDone s (branchNext s link x e sense c cso) link x e sense c cso := by
  rw [branchNext_eq]
  generalize hv : csoApply (tick s { acc := branchRegs (branchTaken s e sense) link x e cso }) cso = v
  generalize hu : { v with segBranch := segmentOff s && ! branchTaken s e sense } = u
  have hm := branchMid_rest s u (nullified (e == 15) (branchTaken s e sense) c)
    (branchTaken s e sense && link)
  refine ⟨follows_advance _ ?_, ?_, ?_, ?_, ?_, ?_, ?_, ?_, ?_, ?_⟩
  · rw [hm, ← hu, ← hv]; simp
  · intro h1 h2
    rw [advance_regs, hm, h1, h2]
    simp [linkValue]
  · intro r hr hq
    have h0 : u.regs[r] = s.regs[r] := by
      rw [← hu, ← hv, csoApply_regs, tick_regs]
      exact ripen_other _ _ hq
    rw [advance_regs, hm, ← h0]
    rw [Bool.and_comm] at hr
    dsimp only
    split
    · rename_i h1
      rw [h1] at hr
      exact Vector.getElem_set_ne _ _ (fun e' => by
        exact absurd (Fin.ext e'.symm) (by simpa using hr))
    · rfl
  · rw [hm, ← hu, ← hv]; simp
  · rw [hm, ← hu, ← hv]; simp
  · rw [hm, ← hu, ← hv]
    exact ⟨fun a => by simp, fun a => by simp⟩
  · refine sameJobs_age (acc := branchRegs (branchTaken s e sense) link x e cso) ?_
    rw [hm, ← hu, ← hv]; simp
  · rw [advance_cinBusy, hm, ← hu, ← hv]; simp
  · rw [advance_icPages, advance_icWords, hm, ← hu, ← hv]
    cases nullified (e == 15) (branchTaken s e sense) c <;> simp
  · apply State.ext <;> first | rfl | (simp [passing]; rw [hm, ← hu, ← hv]; simp)

/-- A ready Branch instruction completes with its effect. -/
theorem runBranch_ready {s : State} {link : Bool} {x : Target} {e : Fin 16} {sense c : Bool}
    {cso : Cso} (h : BranchReady s link x e sense c cso) :
    ∃ t, runBranch s link x e sense c cso = .next t ∧ BranchDone s t link x e sense c cso :=
  ⟨_, runBranch_ok (branchCheck_of_ready h), branchNext_done ..⟩

/-! ### Instructions that hand an operation to another agent -/

/-- An instruction passed when it changed nothing but the registers that ripened, the mailbox flag and
the flow. -/
theorem passed_advance {s u : State} {srcs : List Reg} (q : List (BitVec 17 × FlowTag))
    (hr : u.regs = (ripen s s.plus).regs) (hfm : u.fm = s.fm) (hcb : u.cb = s.cb)
    (hsb : u.sb = s.sb) (hp1 : u.p1 = s.p1) (hpb : u.p2b = s.p2b) (hpn : u.p2n = s.p2n)
    (ho : u.ovf = s.ovf) (ha : u.acf = s.acf) (hc : u.cmpState = s.cmpState)
    (hcin : u.cinBusy = cinAfter s srcs) (hpc : u.pc = s.pc) :
    Passed s (advance u q) srcs [] q := by
  refine ⟨?_, ⟨fun a => by simp [*], fun a => by simp [*]⟩, by simp [*], by simp [*],
    follows_advance q hpc⟩
  intro r _ hq
  rw [advance_regs, hr]
  exact ripen_other _ _ hq

theorem cinAfter_tick (s : State) (d : Done) (l : List Reg) :
    (readEffects (tick s d) l).cinBusy = cinAfter s l := by
  rw [readEffects_cinBusy]
  simp [cinAfter]

/-- A ready Cell Scheduling instruction dispatches its operation. -/
theorem runCss_ready {s : State} {o : CssIssue} (h : CssReady s o.srcs)
    (hpc : o.kind = .popc → o.rd.val < 32 ∧ destCheck s o.rd = .ok ())
    (hpf : o.kind = .popf → s.popfAge = none) :
    ∃ t, runCss s o = .next t ∧ CssDispatched s t o.srcs (cssOpOf s o) := by
  obtain ⟨h1, h2, h3, h4, h5⟩ := h
  refine ⟨_, runCss_ok ?_, ?_⟩
  · unfold cssCheck
    refine seq_ok.2 ⟨raiseIf_false ?_, seq_ok.2 ⟨sourceCheck_ok.2 h1, seq_ok.2 ⟨h2, ?_⟩⟩⟩
    · by_cases e : o.kind = .popc
      · have := (hpc e).1
        simp [e]; omega
      · simp [e]
    · have h6 : raiseIf (o.kind == .popf && s.popfAge.isSome) .popfSpacing = .ok () := by
        refine raiseIf_false ?_
        by_cases e : o.kind = .popf
        · simp [hpf e]
        · simp [e]
      have h7 := advanceCheck_ok h4
      have h8 : stallIf (decide (2 ≤ s.cssq.length)) = .ok () := stallIf_false (by simpa using h5)
      have h9 := raiseIf_false (f := .cssInReset) h3
      split
      · rename_i e
        exact seq_ok.2 ⟨(hpc e).2, seq_ok.2 ⟨h9, seq_ok.2 ⟨h6, seq_ok.2 ⟨h7, h8⟩⟩⟩⟩
      · exact seq_ok.2 ⟨h9, seq_ok.2 ⟨h6, seq_ok.2 ⟨h7, h8⟩⟩⟩
  · unfold cssNext
    dsimp only
    generalize accessed s o.srcs (if o.kind = .popc then [o.rd] else []) = acc
    refine ⟨passed_advance _ ?_ ?_ ?_ ?_ ?_ ?_ ?_ ?_ ?_ ?_ ?_ ?_, ?_, ?_, ?_⟩
    all_goals first
      | exact cinAfter_tick ..
      | exact sameJobs_age (acc := 60 :: acc) (by simp)
      | (apply State.ext <;> first | rfl | simp [passing])
      | simp

/-! ### DMA instructions -/

theorem rlaReg_val {x : Rla} {r : Reg} (h : rlaReg x = some r) : 48 ≤ r.val ∧ r.val ≤ 51 := by
  cases x <;> simp [rlaReg] at h <;> subst h <;> decide

theorem port2Check_ok {c : DmaCmd} (h : Port2Form c) : port2Check c = .ok () := by
  obtain ⟨h1, h2⟩ := h
  unfold port2Check
  refine seq_ok.2 ⟨raiseIf_false h1, seq_ok.2 ⟨raiseIf_false ?_, raiseIf_false ?_⟩⟩
  · cases hb : isBurst c
    · rw [hb] at h2
      simp at h2
      simp [h2]
    · rfl
  · cases hb : isBurst c
    · rfl
    · rw [hb] at h2
      simp at h2
      simp; omega

theorem port1Check_ok {c : DmaCmd} (h : Port1Form c) : port1Check c = .ok () := by
  unfold Port1Form at h
  unfold port1Check
  split
  · rename_i e
    rw [if_pos e] at h
    unfold silentCheck
    split
    · rfl
    · rename_i hd
      rcases h with h | ⟨h1, h2, h3, h4⟩
      · exact absurd h hd
      · rw [if_neg (by simp [h1, h2])]
        split
        · exact raiseIf_false h3
        · rename_i hw
          have := h4 (by simpa using hw)
          exact raiseIf_false (by simp [this]; simpa using h3)
  · rename_i e
    rw [if_neg e] at h
    obtain ⟨h1, h2⟩ := h
    refine seq_ok.2 ⟨raiseIf_false ?_, raiseIf_false (by simpa using h2)⟩
    cases hw : c.write
    · rfl
    · obtain ⟨e1, e2⟩ := h1 hw
      simp only [e1, e2]
      rfl

/-- A ready DMA instruction issues its command. -/
theorem runDma_ready {s : State} {o : DmaOp} (h : DmaReady s o)
    (hp : o.plus = true → ∃ r, PlusReady s o r) :
    ∃ t, runDma s o = .next t ∧ DmaIssued s t o := by
  obtain ⟨⟨⟨r1, r2, r4, r5, r6⟩, ⟨c1, c2⟩, ⟨l1, l2, l3⟩, hport, hadv⟩, hq⟩ := h
  refine ⟨_, runDma_ok ?_, ?_⟩
  · unfold dmaCheck
    refine seq_ok.2 ⟨?_, seq_ok.2 ⟨?_, seq_ok.2 ⟨?_, seq_ok.2 ⟨?_, seq_ok.2 ⟨?_, seq_ok.2
      ⟨?_, ?_⟩⟩⟩⟩⟩⟩
    · unfold controlCheck
      refine seq_ok.2 ⟨raiseIf_false ?_, raiseIf_false ?_⟩
      · cases hs : s.cfg.strictReserved
        · rfl
        · cases hi : o.ibi
          · obtain ⟨e1, e2, e3⟩ := c1 hs hi
            simp [e1, e2, e3]
          · rfl
      · unfold dmaCx dmaCy at c2
        cases hp2 : o.port2 <;> cases hi : o.ibi <;> cases hx : o.crcx <;> cases hy : o.crcy <;>
          simp_all
    · unfold plusCheck
      refine raiseIf_false ?_
      cases e : o.plus
      · rfl
      · obtain ⟨r, e1, _⟩ := hp e
        rw [e1]; rfl
    · unfold dmaReadCheck
      refine seq_ok.2 ⟨sourceCheck_ok.2 r1, when_ok (fun e => r5 ?_) (when_ok (fun e => r4 ?_)
        (when_ok (fun e => r6 e) (forM_ok.2 r2)))⟩
      · simpa using e
      · simpa using e
    · unfold plusFreeCheck
      split
      · rename_i r e e1
        obtain ⟨q, e2, e3, e4⟩ := hp e
        obtain rfl : q = r := Option.some.inj (e2.symm.trans e1)
        exact seq_ok.2 ⟨raiseIf_false (by simp [e3]), raiseIf_false (by simpa using e4)⟩
      · rfl
    · unfold altCheck
      refine raiseIf_false ?_
      cases hx : dmaCx s o <;> cases hy : dmaCy s o <;> simp_all
    · unfold dmaLocalCheck
      refine seq_ok.2 ⟨raiseIf_false l1, seq_ok.2 ⟨raiseIf_false ?_, raiseIf_false ?_⟩⟩
      · unfold gatherBad
        cases h10 : (dmaCmdOf s o).l.getLsbD 10
        · simp
        · by_cases hn : (dmaCmdOf s o).n = 0
          · simp [hn]
          · have := l2 hn h10
            simp only [this]
            simp
      · split at l3
        · rename_i e; rw [e]; simp; omega
        · rename_i e; rw [if_neg e]; simp; omega
    · have h8 : stallIf (decide (3 ≤ (queueOf s o.port2).length)) = .ok () :=
        stallIf_false (by simpa using hq)
      have h7 := advanceCheck_ok hadv
      dsimp only
      split
      · rename_i e
        rw [if_pos e] at hport
        exact seq_ok.2 ⟨port2Check_ok hport, seq_ok.2 ⟨h7, h8⟩⟩
      · rename_i e
        rw [if_neg e] at hport
        exact seq_ok.2 ⟨port1Check_ok hport, seq_ok.2 ⟨h7, h8⟩⟩
  · unfold dmaNext
    dsimp only
    refine ⟨passed_advance _ ?_ ?_ ?_ ?_ ?_ ?_ ?_ ?_ ?_ ?_ ?_ ?_, ?_, ?_, ?_, ?_, ?_, ?_⟩
    all_goals first
      | (simp; exact cinAfter_tick ..)
      | exact sameJobs_age (acc := dmaRegs s o) (by simp)
      | (apply State.ext <;> first | rfl | simp [passing])
      | simp
    · have hx : (dmaCmdOf s o).crcSel = crcSelOf (dmaCx s o) (dmaCy s o) := rfl
      rw [hx]
      cases dmaCx s o <;> cases dmaCy s o <;> simp [crcSelOf, linkAddr]
    · have hx : (dmaCmdOf s o).crcSel = crcSelOf (dmaCx s o) (dmaCy s o) := rfl
      rw [hx]
      cases dmaCx s o <;> cases dmaCy s o <;> simp [crcSelOf, linkAddr]

/-! ### Fast Memory instructions -/

/-- A ready halfword store to Fast Memory is posted. -/
theorem runFmStore_ready {s : State} {hold : CrcSel} {regs : List Reg} {src : Reg} {a : BitVec 20}
    (h : FmStoreReady s hold regs src a) :
    ∃ t, runFmStore s hold regs src a = .next t ∧ FmStorePosted s t regs src a := by
  obtain ⟨h0, h1, h3, h4, h5, h6, h7⟩ := h
  have hh : holdCheck s hold = .ok () := by
    refine raiseIf_false ?_
    rcases h0 with h0 | h0
    · rw [h0]; rfl
    · rw [h0, Bool.and_false]
  refine ⟨_, runFmStore_ok (seq_ok.2 ⟨sourceCheck_ok.2 h1, seq_ok.2 ⟨hh, seq_ok.2 ⟨h3, seq_ok.2
    ⟨raiseIf_false h4, seq_ok.2 ⟨raiseIf_false (by simpa using h5), seq_ok.2 ⟨advanceCheck_ok h6,
      stallIf_false (by simpa using h7)⟩⟩⟩⟩⟩⟩), ?_⟩
  unfold fmStoreNext
  refine ⟨passed_advance _ ?_ ?_ ?_ ?_ ?_ ?_ ?_ ?_ ?_ ?_ ?_ ?_, ?_, ?_, ?_⟩
  all_goals first
    | (simp; exact cinAfter_tick ..)
    | exact sameJobs_age (acc := accessed s (regs ++ [src]) [] ++ [42]) (by simp)
    | (apply State.ext <;> first | rfl | simp [passing])
    | simp

/-- When an LMFM is ready, its checks pass. -/
theorem lmfmCheck_of_ready {s : State} {o : LmfmOp} (h : LmfmReady s o) :
    lmfmCheck s o = .ok () := by
  obtain ⟨⟨l1, l2, l3, l5, l6⟩, h2, h4, h5, h6⟩ := h
  · unfold lmfmCheck
    refine seq_ok.2 ⟨raiseIf_false (by simpa using l1), seq_ok.2 ⟨raiseIf_false (by simpa using l2),
      seq_ok.2 ⟨raiseIf_false ?_, seq_ok.2 ⟨sourceCheck_ok.2 h2, ?_⟩⟩⟩⟩
    · cases hz : o.z
      · rfl
      · have := l3 hz
        simp [Option.isSome_iff_ne_none] at this ⊢
        exact this
    · refine when_ok (fun e => (h4 e).1) (seq_ok.2 ⟨h6, when_ok (fun e => ?_)
        (when_ok (fun e => ?_) (advanceCheck_ok h5))⟩)
      · obtain ⟨k1, k2, k3⟩ := l5 e
        obtain ⟨k4, k5⟩ := h4 e
        refine seq_ok.2 ⟨raiseIf_false k1, seq_ok.2 ⟨raiseIf_false (by simpa using k5),
          seq_ok.2 ⟨raiseIf_false ?_, raiseIf_false (by simpa using k3)⟩⟩⟩
        by_cases hn : 2 ≤ o.n
        · rw [k2 hn]; simp
        · simp [hn]
      · obtain ⟨k1, k2⟩ := l6 e
        exact seq_ok.2 ⟨raiseIf_false (by simpa using k1), raiseIf_false (by simp only [k2]; rfl)⟩

/-- What the state is after an LMFM has been issued. -/
theorem lmfmNext_issued (s : State) (o : LmfmOp) : LmfmIssued s (lmfmNext s o) o := by
  · unfold lmfmNext
    dsimp only
    cases hl : o.lnk <;> by_cases hn : o.n = 0 <;> simp only [hn, if_true, if_false,
      Bool.false_eq_true] <;>
      refine ⟨passed_advance _ ?_ ?_ ?_ ?_ ?_ ?_ ?_ ?_ ?_ ?_ ?_ ?_, ?_, ?_, ?_, ?_⟩
    all_goals first
      | exact cinAfter_tick ..
      | (apply State.ext <;> first | rfl | simp [passing])
      | (intro e; exact absurd (hl.symm.trans e) (by decide))
      | (intro _; constructor <;> simp <;> rfl)
      | (simp; done)
      | (simp; rw [if_pos hn, List.append_nil]; rfl)
      | (simp; rw [if_neg hn, hl]; rfl)

/-! ### Internal RAM instructions -/

theorem targetFaults_ok {t : Half} {swap : BitVec 2} (h : TargetOk t swap) :
    targetFaults t swap = .ok () := by
  obtain ⟨h1, h2⟩ := h
  refine seq_ok.2 ⟨raiseIf_false ?_, raiseIf_false ?_⟩
  · unfold inScoreboard
    cases h11 : t.getLsbD 11
    · rfl
    · rw [h1 h11]; rfl
  · unfold gatherBad
    cases h11 : t.getLsbD 11
    · cases h10 : t.getLsbD 10
      · rfl
      · simp only [h2 h11 h10]; rfl
    · rfl

theorem gather_ok {t : Half} {swap : BitVec 2} (h : TargetOk t swap) : gatherBad t = false :=
  raiseIf_ok.1 (seq_ok.1 (targetFaults_ok h)).2

/-- What the state is after a load or store has been issued. -/
theorem lsuNext_issued (s : State) (d : Done) (srcs : List Reg) (o : LsuOp) :
    LsuIssued s (lsuNext s d srcs o) srcs o := by
  unfold lsuNext
  refine ⟨passed_advance _ ?_ ?_ ?_ ?_ ?_ ?_ ?_ ?_ ?_ ?_ ?_ ?_, ?_, ?_, ?_⟩
  all_goals first
    | (simp; exact cinAfter_tick ..)
    | exact sameJobs_age (acc := d.acc) (by simp)
    | (apply State.ext <;> first | rfl | simp [passing])
    | simp

theorem loadCheck_ok {s : State} {x : Rla} {swap : BitVec 2} {t : Half} {ds : List Reg}
    (h : LoadReady s x swap t ds) : loadCheck s x swap t ds = .ok () := by
  obtain ⟨h1, h2, h3, h4⟩ := h
  refine seq_ok.2 ⟨raiseIf_false ?_, seq_ok.2 ⟨sourceCheck_ok.2 h1, seq_ok.2 ⟨forM_ok.2 fun r hr => (h4 r hr).2,
    seq_ok.2 ⟨targetFaults_ok h2, advanceCheck_ok h3⟩⟩⟩⟩
  simp only [List.contains_eq_mem, decide_eq_false_iff_not]
  exact fun e => (h4 61 e).1 rfl

theorem holdsStore_false {s : State} (h : ∀ o ∈ s.lsu, isStore o = false) :
    holdsStore s = false := by
  unfold holdsStore
  rw [List.any_eq_false]
  intro o ho
  have := h o ho
  cases o <;> simp_all [isStore]

end Sys2Proof.Machine
end

