-- ==== Sys2Proof/Tests/Slice0.lean ====
section
/-!
SUPPORT. Tests of the model against the spec's own test points, and witnesses of the statements'
hypotheses. Expected values come from spec/ (95_test_vectors, the numbered rules), not from the model.
-/
namespace Sys2Proof.Tests
open Sys2Proof Sys2Proof.Machine

set_option maxRecDepth 100000

/-! ### Well-formedness: one ill-formed term for each check -/

theorem test_wf_tset : (Instr.andi 36 false .bnz 1 1).wf false = false := by decide
theorem test_wf_tclr : (Instr.andi 36 false .bz 1 1).wf false = false := by decide
theorem test_wf_mv : (Instr.ori 2 false .none 1 0).wf false = false := by decide
theorem test_wf_nop : (Instr.limd 36 false 0).wf false = false := by decide
theorem test_wf_shfm : (Instr.srh 0 0 1 0 2).wf false = false := by decide
theorem test_wf_dma1r_count : (Instr.dma1r 128 .r48 1 true false false false false 2).wf true = false := by
  decide
theorem test_wf_dma1w_count : (Instr.dma1w 128 .r48 1 true false false false false 2).wf true = false := by
  decide
theorem test_wf_dma2r_count : (Instr.dma2r 128 .r48 1 true false 2).wf true = false := by decide
theorem test_wf_dma2w_count : (Instr.dma2w 128 .r48 1 true false 2).wf true = false := by decide
theorem test_wf_dma1r_plus : (Instr.dma1rPlus 1 .r48 1 true false false false false 2).wf false = false := by
  decide
theorem test_wf_dma1w_plus : (Instr.dma1wPlus 1 .r48 1 true false false false false 2).wf false = false := by
  decide
theorem test_wf_dma2r_plus : (Instr.dma2rPlus 1 .r48 1 true false 2).wf false = false := by decide
theorem test_wf_dma2w_plus : (Instr.dma2wPlus 1 .r48 1 true false 2).wf false = false := by decide
theorem test_wf_accepts : (Instr.dma1r 255 .r48 1 true false false false false 2).wf false = true ∧
    (Instr.dma1r 127 .r48 1 true false false false false 2).wf true = true ∧
    (Instr.dma1rPlus 127 .r48 1 true false false false false 2).wf true = true ∧
    (Instr.andi 36 true .bz 1 1).wf false = true := by decide

/-! ### Decoding: words of the spec, every constructor -/

theorem test_decode_arithmetic :
    decode true false 0x802000C1 = .ok (.add 2 false .none 0 3 false 1) ∧
    decode true false 0x80A82149 = .ok (.add 10 true .none 8 5 false 9) ∧
    decode true false 0x803307E2 = .ok (.add 3 false .bz 1 15 true 2) ∧
    decode true false 0x883604C2 = .ok (.sub 3 false .bnz 1 3 false 2) ∧
    decode true false 0x904033D7 = .ok (.addi 4 false .none 12 15 23) ∧
    decode true false 0x91232D1A = .ok (.addi 18 false .bz 11 4 26) ∧
    decode true false 0x981607C1 = .ok (.subi 1 false .bnz 1 15 1) := by
  decide

theorem test_decode_logic :
    decode true false 0xC10823C9 = .ok (.and 16 true .none 8 15 false 9) ∧
    decode true false 0xC43107C2 = .ok (.or 3 false .bgez 1 15 false 2) ∧
    decode true false 0xC82307C1 = .ok (.xor 2 false .bz 1 15 false 1) ∧
    decode true false 0xD0250600 = .ok (.andi 2 false .blz 1 0x200) ∧
    decode true false 0xD4230400 = .ok (.ori 2 false .bz 1 0) ∧
    decode true false 0xD843307F = .ok (.xori 4 false .bz 12 0x7F) := by
  decide

theorem test_decode_maxmin :
    decode true false 0xE11023C9 = .ok (.max 17 false 0 8 15 false 9) ∧
    decode true false 0xE51823C9 = .ok (.min 17 true 0 8 15 false 9) ∧
    decode true false 0xF02405FF = .ok (.maxi 2 false 4 1 0x1FF) ∧
    decode true false 0xF4220600 = .ok (.mini 2 false 2 1 0x200) := by
  decide

theorem test_decode_compare :
    decode true false 0xE80013C5 = .ok (.cmp 0 4 false 5) ∧
    decode true false 0xEA021BC7 = .ok (.cmpp 2 6 false 7) ∧
    decode true false 0xF80307FF = .ok (.cmpi 3 1 0x3FF) ∧
    decode true false 0xFA020401 = .ok (.cmppi 2 1 1) := by
  decide

theorem test_decode_find_load :
    decode true false 0xECA127C0 = .ok (.fls 10 false .bgez 9 false) ∧
    decode true false 0xFC8067FC = .ok (.limd 8 false 0x67FC) ∧
    decode true false 0xFC588000 = .ok (.limd 5 true 0x8000) ∧
    decode true false 0xFE400000 = .ok (.nop) ∧
    decode true false 0xD410EC00 = .ok (.mv 1 59) ∧
    decode true false 0xD2460401 = .ok (.tset 1 1) ∧
    decode true false 0xD2430401 = .ok (.tclr 1 1) := by
  decide

theorem test_decode_shift :
    decode true false 0xA4A023C9 = .ok (.sft 10 false .none 8 15 9) ∧
    decode true false 0xACA023C9 = .ok (.sfta 10 false .none 8 15 9) ∧
    decode true false 0xA8A023C9 = .ok (.sftc 10 false .none 8 15 false 9) ∧
    decode true false 0xBC2005D4 = .ok (.sftai 2 false .none 1 7 4) ∧
    decode true false 0xB8A027D7 = .ok (.sftci 10 false .none 9 15 false 7) ∧
    decode true false 0xB51043C7 = .ok (.sftli 17 false .none 16 15 false 7) ∧
    decode true false 0xB51043D9 = .ok (.sftri 17 false .none 16 15 false 9) := by
  decide

theorem test_decode_branch :
    decode true false 0x00700045 = .ok (.bi 1 true true .none 0x45) ∧
    decode true false 0x02B0024A = .ok (.bi 10 true true .none 0x24A) ∧
    decode true false 0x03CC2333 = .ok (.bi 15 false false .itxbusy 0x333) ∧
    decode true false 0x044E1100 = .ok (.bil 1 false false .drxfull 0x100) ∧
    decode true false 0x0BD00000 = .ok (.br 15 false true .none) ∧
    decode true false 0x0FC00000 = .ok (.brl 15 false false .none) ∧
    decode true false 0x13C00000 = .ok (.bf 15 false false .none) ∧
    decode true false 0x17C00000 = .ok (.bfl 15 false false .none) := by
  decide

theorem test_decode_css :
    decode true false 0x24A00007 = .ok (.popc 10 7) ∧
    decode true false 0x24010007 = .ok (.popf 0 7) ∧
    decode true false 0x20002816 = .ok (.pushc 10 22) ∧
    decode true false 0x20012816 = .ok (.pushf 10 22) := by
  decide

theorem test_decode_fast_memory :
    decode true false 0x55082A0B = .ok (.lmfm 16 true false 10 16 11) ∧
    decode true false 0x55092A0B = .ok (.lmfm 16 true true 10 16 11) ∧
    decode true false 0x5C004011 = .ok (.shfm 16 17) ∧
    decode true false 0x5C140140 = .ok (.srh 2 4 0 10 0) := by
  decide

theorem test_decode_internal_ram :
    decode true false 0x40D000A0 = .ok (.ld 13 .r48 0 5) ∧
    decode true false 0x44040C00 = .ok (.ldd 0 .ga 3 0) ∧
    decode true false 0x48012940 = .ok (.st 0 .r49 10 10) ∧
    decode true false 0x4C340001 = .ok (.std 3 .ga 0 0 1) := by
  decide

theorem test_decode_dma :
    decode true false 0x61421305 = .ok (.dma1r 40 .r50 4 true true false false false 5) ∧
    decode true false 0x68021005 = .ok (.dma1w 0 .r50 4 false false false false false 5) ∧
    decode true false 0x66421205 = .ok (.dma1r 200 .r50 4 true false false false false 5) ∧
    decode true false 0x60001225 = .ok (.dma1r 0 .r48 4 true false false false true 5) ∧
    decode true false 0x70811A07 = .ok (.dma2r 16 .r49 6 true false 7) ∧
    decode true false 0x78141A07 = .ok (.dma2w 2 .ga 6 true false 7) := by
  decide

theorem test_decode_dma_plus :
    decode true true 0x66421205 = .ok (.dma1rPlus 72 .r50 4 true false false false false 5) ∧
    decode true true 0x6D8012C5 = .ok (.dma1wPlus 48 .r48 4 true false true true false 5) ∧
    decode true true 0x76011A47 = .ok (.dma2rPlus 64 .r49 6 true true 7) ∧
    decode true true 0x7C111A07 = .ok (.dma2wPlus 2 .r49 6 true false 7) := by
  decide

/-- ADD (R1,R2) R3 BNO, format ALU3. -/
theorem test_bits_add :
    decode true false (0b100000#6 ++ 0b000011#6 ++ 0b0#1 ++ 0b111#3 ++ 0b000001#6 ++ 0b1111#4 ++ 0b0#1 ++ 0b00010#5) =
      .ok (.add 3 false .bno 1 15 false 2) := by
  decide

/-- ADDI (R12,23) R4, format ALUI6. -/
theorem test_bits_addi :
    decode true false (0b100100#6 ++ 0b000100#6 ++ 0b0#1 ++ 0b000#3 ++ 0b001100#6 ++ 0b1111#4 ++ 0b010111#6) =
      .ok (.addi 4 false .none 12 15 23) := by
  decide

/-- ANDI (R1,0x200) R2 BLZ, format ALUI10. -/
theorem test_bits_andi :
    decode true false (0b110100#6 ++ 0b000010#6 ++ 0b0#1 ++ 0b101#3 ++ 0b000001#6 ++ 0b1000000000#10) =
      .ok (.andi 2 false .blz 1 0x200) := by
  decide

/-- CMPP R6, R7, BAGB, format CMPR. -/
theorem test_bits_cmpp :
    decode true false (0b111010#6 ++ 0b100#3 ++ 0b000#3 ++ 0b0#1 ++ 0b010#3 ++ 0b000110#6 ++ 0b1111#4 ++ 0b0#1 ++ 0b00111#5) =
      .ok (.cmpp 2 6 false 7) := by
  decide

/-- FLS R9, R10, BGEZ, format FLS. -/
theorem test_bits_fls :
    decode true false (0b111011#6 ++ 0b001010#6 ++ 0b0#1 ++ 0b001#3 ++ 0b001001#6 ++ 0b1111#4 ++ 0b0#1 ++ 0b00000#5) =
      .ok (.fls 10 false .bgez 9 false) := by
  decide

/-- LIMD R8, 0x67FC, format LIMD. -/
theorem test_bits_limd :
    decode true false (0b111111#6 ++ 0b001000#6 ++ 0b0#1 ++ 0b000#3 ++ 0x67FC#16) =
      .ok (.limd 8 false 0x67FC) := by
  decide

/-- SFTRI R16, 7, R17, format SFTI5. -/
theorem test_bits_sftri :
    decode true false (0b101101#6 ++ 0b010001#6 ++ 0b0#1 ++ 0b000#3 ++ 0b010000#6 ++ 0b1111#4 ++ 0b0#1 ++ 0b11001#5) =
      .ok (.sftri 17 false .none 16 15 false 9) := by
  decide

/-- BI 0x045 ESS1/1/C, format BRANCH. -/
theorem test_bits_bi :
    decode true false (0b000000#6 ++ 0b0001#4 ++ 0b1#1 ++ 0b1#1 ++ 0x00#8 ++ 0x045#12) =
      .ok (.bi 1 true true .none 0x45) := by
  decide

/-- POPC R10 @R7, format CSS. -/
theorem test_bits_popc :
    decode true false (0b001001#6 ++ 0b001010#6 ++ 0b0#1 ++ 0b000#3 ++ 0b000000#6 ++ 0b00000#5 ++ 0b00111#5) =
      .ok (.popc 10 7) := by
  decide

/-- DMA1R R4/R5, R50 BC/40 CRCX, format DMA. -/
theorem test_bits_dma1r :
    decode true false (0b011#3 ++ 0b00#2 ++ 0b00101000#8 ++ 0b010#3 ++ 0b000100#6 ++ 0b11000#5 ++ 0b00101#5) =
      .ok (.dma1r 40 .r50 4 true true false false false 5) := by
  decide

/-- LMFM R16 @R10/R11 16HW LNK, format LMFM. -/
theorem test_bits_lmfm :
    decode true false (0b010101#6 ++ 0b010000#6 ++ 0b1#1 ++ 0b000#3 ++ 0b001010#6 ++ 0b10000#5 ++ 0b01011#5) =
      .ok (.lmfm 16 true false 10 16 11) := by
  decide

/-- SRH R44 CRCXADR LSBS/10, format SRH. -/
theorem test_bits_srh :
    decode true false (0b010111#6 ++ 0b00000#5 ++ 0b10#2 ++ 0b100#3 ++ 0b000000#6 ++ 0b01010#5 ++ 0b00000#5) =
      .ok (.srh 2 4 0 10 0) := by
  decide

/-- LDDSBH r0 GA, format LOAD. -/
theorem test_bits_ldd :
    decode true false (0b010001#6 ++ 0b000000#6 ++ 0b0#1 ++ 0b100#3 ++ 0b0000#4 ++ 0b11#2 ++ 0b00000#5 ++ 0b00000#5) =
      .ok (.ldd 0 .ga 3 0) := by
  decide

/-- ST R10 @R49 IDX/20, format STORE. -/
theorem test_bits_st :
    decode true false (0b010010#6 ++ 0b0000#4 ++ 0b00#2 ++ 0b0#1 ++ 0b001#3 ++ 0b001010#6 ++ 0b01010#5 ++ 0b00000#5) =
      .ok (.st 0 .r49 10 10) := by
  decide

theorem test_undefined_word : decode true false 0x18000000 = .error .undefinedOpcode ∧
    decode true false 0x24A20007 = .error .undefinedOpcode ∧
    decode true false 0x03C01000 = .error .reservedEncoding := by decide

/-! ### Running one instruction -/

/-- The state after reset with some registers changed. -/
def withRegs (l : List (Reg × Half)) : State :=
  { State.reset with regs := l.foldl (fun v p => v.set p.1 p.2) State.reset.regs }

/-- What one step of the word `w` on `s` gives, seen through `f`. -/
def ran {α : Type} (s : State) (w : Nat) (f : State → α) : Option α :=
  match step (s.withFetchWord 32 w) with
  | .next t => some (f t)
  | .fault _ => none
  | .refused _ => none

/-- The fault one step of the word `w` on `s` ends in. -/
def stops (s : State) (w : Nat) : Option Fault :=
  match step (s.withFetchWord 32 w) with
  | .fault f => some f
  | .next _ => none
  | .refused _ => none

/-- What a move of an agent gives, seen through `f`. -/
def moved {α : Type} (s : State) (m : Move) (f : State → α) : Option α :=
  match perform s m with
  | .ok t => some (f t)
  | .error _ => none

/-! ### The ALU (95_test_vectors 2.1): result, OVF, and the tag of what follows -/

theorem test_add_overflow : ran (withRegs [(1, 0x7FFF), (2, 0x1)]) 0x803707C2 (fun t => (t.regs[3], t.ovf, t.ctag)) =
    some (0x8000, true, .aslotNt) := by decide
theorem test_add_modulo : ran (withRegs [(1, 0x12FF), (2, 0x1)]) 0x803305C2 (fun t => (t.regs[3], t.ovf, t.ctag)) =
    some (0x1200, false, .aslotT) := by decide
theorem test_sub_overflow : ran (withRegs [(1, 0x8000), (2, 0x1)]) 0x883707C2 (fun t => (t.regs[3], t.ovf, t.ctag)) =
    some (0x7FFF, true, .aslotNt) := by decide
theorem test_sub_modulo : ran (withRegs [(1, 0x1230), (2, 0x1)]) 0x883604C2 (fun t => (t.regs[3], t.ovf, t.ctag)) =
    some (0x123F, false, .aslotT) := by decide
theorem test_addi_overflow : ran (withRegs [(1, 0x7FFF)]) 0x901707C1 (fun t => (t.regs[1], t.ovf, t.ctag)) =
    some (0x8000, true, .aslotNt) := by decide
theorem test_addi_modulo : ran (withRegs [(7, 0x1FFE)]) 0x90701EC2 (fun t => (t.regs[7], t.ovf, t.ctag)) =
    some (0x1000, false, .seq) := by decide
theorem test_subi_overflow : ran (withRegs [(1, 0x8000)]) 0x981707C1 (fun t => (t.regs[1], t.ovf, t.ctag)) =
    some (0x7FFF, true, .aslotNt) := by decide
theorem test_subi_modulo : ran (withRegs [(1, 0x140)]) 0x98100541 (fun t => (t.regs[1], t.ovf, t.ctag)) =
    some (0x017F, false, .seq) := by decide
theorem test_and_modulo : ran (withRegs [(1, 0xFFF5), (2, 0xA)]) 0xC03304C2 (fun t => (t.regs[3], t.ovf, t.ctag)) =
    some (0xFFF0, false, .aslotT) := by decide
theorem test_or_sign : ran (withRegs [(1, 0x8000), (2, 0x1)]) 0xC43107C2 (fun t => (t.regs[3], t.ovf, t.ctag)) =
    some (0x8001, false, .aslotNt) := by decide
theorem test_xor_modulo : ran (withRegs [(1, 0x1234), (2, 0xFFFF)]) 0xC83004C2 (fun t => (t.regs[3], t.ovf, t.ctag)) =
    some (0x123B, false, .seq) := by decide
theorem test_andi_extends : ran (withRegs [(1, 0x8123)]) 0xD0250600 (fun t => (t.regs[2], t.ovf, t.ctag)) =
    some (0x8000, false, .aslotT) := by decide
theorem test_ori_extends : ran (withRegs [(1, 0x1)]) 0xD4200600 (fun t => (t.regs[2], t.ovf, t.ctag)) =
    some (0xFE01, false, .seq) := by decide
theorem test_xori_extends : ran (withRegs [(1, 0xFF)]) 0xD82007FF (fun t => (t.regs[2], t.ovf, t.ctag)) =
    some (0xFF00, false, .seq) := by decide
theorem test_max_unsigned : ran (withRegs [(1, 0x8000), (2, 0x7FFF)]) 0xE03207C2 (fun t => (t.regs[3], t.ovf, t.ctag)) =
    some (0x8000, false, .aslotT) := by decide
theorem test_max_modulo : ran (withRegs [(1, 0x1205), (2, 0x34FF)]) 0xE03005C2 (fun t => (t.regs[3], t.ovf, t.ctag)) =
    some (0x12FF, false, .seq) := by decide
theorem test_min_unsigned : ran (withRegs [(1, 0x7FFF), (2, 0x8000)]) 0xE43507C2 (fun t => (t.regs[3], t.ovf, t.ctag)) =
    some (0x7FFF, false, .aslotT) := by decide
theorem test_min_modulo : ran (withRegs [(1, 0xFFF9), (2, 0x3)]) 0xE43004C2 (fun t => (t.regs[3], t.ovf, t.ctag)) =
    some (0xFFF3, false, .seq) := by decide
theorem test_maxi_keeps : ran (withRegs [(1, 0x200)]) 0xF02405FF (fun t => (t.regs[2], t.ovf, t.ctag)) =
    some (0x0200, false, .aslotNt) := by decide
theorem test_maxi_extends : ran (withRegs [(1, 0x1234)]) 0xF02007FF (fun t => (t.regs[2], t.ovf, t.ctag)) =
    some (0xFFFF, false, .seq) := by decide
theorem test_mini_extends : ran (withRegs [(1, 0xFE01)]) 0xF4220600 (fun t => (t.regs[2], t.ovf, t.ctag)) =
    some (0xFE00, false, .aslotT) := by decide
theorem test_mini_clamps : ran (withRegs [(1, 0x41)]) 0xF4210440 (fun t => (t.regs[2], t.ovf, t.ctag)) =
    some (0x0040, false, .aslotT) := by decide
theorem test_fls_top : ran (withRegs [(1, 0x8000)]) 0xEC2107C0 (fun t => (t.regs[2], t.ovf, t.ctag)) =
    some (0x000F, false, .aslotT) := by decide
theorem test_fls_none : ran (withRegs [(1, 0x0)]) 0xEC2507C0 (fun t => (t.regs[2], t.ovf, t.ctag)) =
    some (0x8000, false, .aslotT) := by decide
theorem test_limd_value : ran State.reset 0xFC10FFFF (fun t => (t.regs[1], t.ovf, t.ctag)) =
    some (0xFFFF, false, .seq) := by decide
theorem test_sft_right : ran (withRegs [(1, 0x8001), (2, 0x1F)]) 0xA43007C2 (fun t => (t.regs[3], t.ovf, t.ctag)) =
    some (0x4000, false, .seq) := by decide
theorem test_sft_left : ran (withRegs [(1, 0xABCD), (2, 0xFFE4)]) 0xA43007C2 (fun t => (t.regs[3], t.ovf, t.ctag)) =
    some (0xBCD0, false, .seq) := by decide
theorem test_sfta_sign : ran (withRegs [(1, 0xC000), (2, 0x1)]) 0xAC3507C2 (fun t => (t.regs[3], t.ovf, t.ctag)) =
    some (0xE000, false, .aslotT) := by decide
theorem test_sftc_modulo : ran (withRegs [(1, 0x8420), (2, 0x1)]) 0xA83604C2 (fun t => (t.regs[3], t.ovf, t.ctag)) =
    some (0x8421, false, .aslotT) := by decide
theorem test_sftc_twelve : ran (withRegs [(1, 0x1234), (2, 0xC)]) 0xA83007C2 (fun t => (t.regs[3], t.ovf, t.ctag)) =
    some (0x4123, false, .seq) := by decide
theorem test_sftai_modulo : ran (withRegs [(1, 0x8FF0)]) 0xBC2005D4 (fun t => (t.regs[2], t.ovf, t.ctag)) =
    some (0x8FFF, false, .seq) := by decide
theorem test_sftai_fifteen : ran (withRegs [(1, 0x8001)]) 0xBC2507DF (fun t => (t.regs[2], t.ovf, t.ctag)) =
    some (0xFFFF, false, .aslotT) := by decide
theorem test_sftci_eight : ran (withRegs [(1, 0x12AB)]) 0xB82007D8 (fun t => (t.regs[2], t.ovf, t.ctag)) =
    some (0xAB12, false, .seq) := by decide
theorem test_sftci_fifteen : ran (withRegs [(1, 0x1)]) 0xB82007DF (fun t => (t.regs[2], t.ovf, t.ctag)) =
    some (0x8000, false, .seq) := by decide
theorem test_sftli_fifteen : ran (withRegs [(1, 0x1)]) 0xB42507CF (fun t => (t.regs[2], t.ovf, t.ctag)) =
    some (0x8000, false, .aslotT) := by decide
theorem test_sftli_modulo : ran (withRegs [(1, 0x12F0)]) 0xB42305C4 (fun t => (t.regs[2], t.ovf, t.ctag)) =
    some (0x1200, false, .aslotT) := by decide
theorem test_sftri_sixteen : ran (withRegs [(1, 0xFFFF)]) 0xB42307D0 (fun t => (t.regs[2], t.ovf, t.ctag)) =
    some (0x0000, false, .aslotT) := by decide
theorem test_sftri_modulo : ran (withRegs [(1, 0xABCD)]) 0xB42004DC (fun t => (t.regs[2], t.ovf, t.ctag)) =
    some (0xABCC, false, .seq) := by decide
theorem test_mv_value : ran (withRegs [(1, 0x8001)]) 0xD4200400 (fun t => (t.regs[2], t.ovf, t.ctag)) =
    some (0x8001, false, .seq) := by decide

theorem test_add_modulo_sign : stops State.reset 0x803104C2 = some .moduloSignBranch := by decide
theorem test_sfta_ambiguous : stops (withRegs [(1, 0x8000), (2, 0x10)]) 0xAC3007C2 =
    some .shiftAmountAmbiguous := by decide
theorem test_max_modulo_branch : stops (withRegs [(1, 0x1205), (2, 0x34FF)]) 0xE03505C2 =
    some .moduloSignBranch := by decide

/-- TSET is taken when a tested bit is set, TCLR when none is (41 R244, R245). -/
theorem test_tset : ran (withRegs [(1, 1)]) 0xD2460401 (fun t => t.fq) = some [(4, .seq)] ∧
    ran (withRegs [(1, 2)]) 0xD2460401 (fun t => t.ctag) = some .aslotNt := by decide
theorem test_tclr : ran (withRegs [(1, 2)]) 0xD2430401 (fun t => t.fq) = some [(4, .seq)] ∧
    ran (withRegs [(1, 1)]) 0xD2430401 (fun t => t.ctag) = some .aslotNt := by decide

/-- NOP changes the pc alone; a LIMD of R36 is discarded. -/
theorem test_nop : ran State.reset 0xFE400000 (fun t => (t.pc, t.regs == State.reset.regs)) =
    some (1, true) := by decide
theorem test_limd_bit_bucket : ran State.reset 0xFE401234 (fun t => t.regs == State.reset.regs) =
    some true := by decide

theorem test_cmp_greater : ran { withRegs [(1, 0x8000), (2, 0x7FFF)] with cmpState := .lt } 0xE80207C2
    (fun t => (t.cmpState, t.ctag)) = some (.gt, .aslotT) := by decide
theorem test_cmp_less : ran { withRegs [(1, 0x0), (2, 0xFFFF)] with cmpState := .gt } 0xE80607C2
    (fun t => (t.cmpState, t.ctag)) = some (.lt, .aslotT) := by decide
theorem test_cmpp_keeps : ran { withRegs [(1, 0x0), (2, 0xFFFF)] with cmpState := .gt } 0xEA0107C2
    (fun t => (t.cmpState, t.ctag)) = some (.gt, .aslotT) := by decide
theorem test_cmpp_decides : ran { withRegs [(1, 0x1), (2, 0x2)] with cmpState := .eq } 0xEA0507C2
    (fun t => (t.cmpState, t.ctag)) = some (.lt, .aslotT) := by decide
theorem test_cmpi_extends : ran { withRegs [(1, 0x8000)] with cmpState := .eq } 0xF8050600
    (fun t => (t.cmpState, t.ctag)) = some (.lt, .aslotT) := by decide
theorem test_cmpi_equal : ran { withRegs [(1, 0xFFFF)] with cmpState := .gt } 0xF80307FF
    (fun t => (t.cmpState, t.ctag)) = some (.eq, .aslotT) := by decide
theorem test_cmppi_decides : ran { withRegs [(1, 0x2)] with cmpState := .eq } 0xFA020401
    (fun t => (t.cmpState, t.ctag)) = some (.gt, .aslotT) := by decide
theorem test_cmppi_keeps : ran { withRegs [(1, 0x2)] with cmpState := .lt } 0xFA020401
    (fun t => (t.cmpState, t.ctag)) = some (.lt, .aslotNt) := by decide

/-- The manual's Update Memory example: ADDI R27, 1, R27 UM after the link of R24 at 0x08010 (45 R369). -/
theorem test_update_memory : ran { withRegs [(27, 0x0041)] with linkAdrs := 0x4008, linkMask := 7 }
    0x91B86FC1 (fun t => (t.wbuf, t.regs[27])) = some ([(0x8016, 0x0042)], 0x0042) := by decide

/-- Rows 6, 7 and 10 of the ALU branch flow (95_test_vectors 2.1). -/
theorem test_alu_branch_slot : stops { withRegs [(5, 2)] with ctag := .aslotT, fq := [(4, .seq)] }
    0x985617C1 = some .slotRestriction ∧
    stops { State.reset with ctag := .aslotT, fq := [(4, .seq)] } 0x03C00200 =
      some .nestedBranch := by decide
theorem test_alu_branch_overrun : stops { withRegs [(0, 1)] with pc := 0xFFD } 0x980303C1 =
    some .segmentOverrun := by decide

/-! ### Branches (95_test_vectors 2.2) -/

/-- The branch test state: the branch at word 0x010. -/
def at10 (l : List (Reg × Half)) : State := { withRegs l with pc := 0x10 }

theorem test_bi_counts : ran { at10 [] with rxbusy := 1 } 0x026E0103
    (fun t => (t.pc, t.ctag, t.fq, t.rxbusy)) = some (0x11, .bslot, [(0x103, .seq)], 0) := by decide
theorem test_bi_nullifies : ran (at10 []) 0x01B00200 (fun t => (t.pc, t.ctag, t.fq)) =
    some (0x12, .seq, []) := by decide
theorem test_bi_segment : ran (at10 [(53, 3)]) 0x03D00020 (fun t => t.pc) = some 0x3020 := by decide
theorem test_bi_counter_range : stops (at10 []) 0x026E0103 = some .counterRange := by decide
theorem test_bil_link : ran { withRegs [] with pc := 0x102 } 0x07C00108
    (fun t => (t.pc, t.fq, t.regs[59])) = some (0x103, [(0x108, .seq)], 0x0104) := by decide
theorem test_bil_link_wraps : ran { withRegs [] with pc := 0xFFE } 0x07C00200
    (fun t => (t.pc, t.regs[59])) = some (0xFFF, 0) := by decide
theorem test_br_target : ran (at10 [(59, 0x104)]) 0x0BC00000 (fun t => (t.pc, t.fq)) =
    some (0x11, [(0x104, .seq)]) := by decide
theorem test_brl_link : ran (at10 [(59, 0x40)]) 0x0FD00000 (fun t => (t.pc, t.fq, t.regs[59])) =
    some (0x40, [], 0x12) := by decide
theorem test_bf_target : ran (at10 [(58, 0xABC)]) 0x13C00000 (fun t => (t.pc, t.fq)) =
    some (0x11, [(0xABC, .seq)]) := by decide
theorem test_bfl_link : ran (at10 [(58, 0xABC)]) 0x17C00000 (fun t => (t.fq, t.regs[59])) =
    some ([(0xABC, .seq)], 0x12) := by decide

/-! ### The Cell Scheduling System (95_test_vectors 2.3) -/

theorem test_popc_dispatch : ran (withRegs [(7, 2)]) 0x24A00007 (fun t => (t.cssq, t.popcShadow)) =
    some ([{ kind := .popc, t := 2, cid := 0, rd := 10 }], some 10) := by decide
theorem test_popf_dispatch : ran (withRegs [(7, 0x10)]) 0x24010007 (fun t => (t.cssq, t.popfAge)) =
    some ([{ kind := .popf, t := 0x10, cid := 0, rd := 0 }], some 0) := by decide
theorem test_pushc_dispatch : ran (withRegs [(22, 8), (10, 47)]) 0x20002816 (fun t => t.cssq) =
    some [{ kind := .pushc, t := 8, cid := 47, rd := 10 }] := by decide
theorem test_pushf_dispatch : ran (withRegs [(22, 8)]) 0x20012816 (fun t => t.cssq) =
    some [{ kind := .pushf, t := 8, cid := 0, rd := 10 }] := by decide

/-- R60 = 0x0000 and one operation in the buffer. -/
def cssAt (o : CssOp) (sb : Sparse Bool) : State :=
  { withRegs [(60, 0)] with cssq := [o], sb := sb }

theorem test_popc_action : moved
    { cssAt { kind := .popc, t := 2, cid := 0, rd := 10 } [(2, true)] with
      fm := [(4, 0x3C), (5, 0xA0)] } .css (fun t => (t.acf, t.sb, t.regs[10])) =
    some (true, [(2, false)], 0x3CA0) := by decide
theorem test_popf_action : moved (cssAt { kind := .popf, t := 16, cid := 0, rd := 0 } [(16, true)])
    .css (fun t => (t.acf, t.sb, t.regs[0])) = some (true, [(16, false)], 0) := by decide
theorem test_pushc_action : moved
    (cssAt { kind := .pushc, t := 8, cid := 47, rd := 10 } [(8, true), (9, true), (10, false)])
    .css (fun t => (t.sb, t.regs[61], t.wbuf)) =
    some ([(8, true), (9, true), (10, true)], 0x000A, [(0x14, 0x002F)]) := by decide
theorem test_pushf_wraps : moved
    (cssAt { kind := .pushf, t := 4095, cid := 0, rd := 0 } [(2048, false), (4095, true)])
    .css (fun t => (t.sb, t.regs[61])) = some ([(2048, true), (4095, true)], 0x0800) := by decide
theorem test_css_stops : stops State.reset 0x26800007 = some .operandClass ∧
    stops (withRegs [(60, 0x4000)]) 0x24010007 = some .cssInReset ∧
    stops { State.reset with popfAge := some 2 } 0x24010007 = some .popfSpacing := by decide

/-! ### DMA (44 R339; 95_test_vectors 2.4) -/

theorem test_dma1r_command : ran (withRegs [(4, 0x12), (5, 0x3456), (50, 0x40)]) 0x61421305
    (fun t => t.q1) = some
      [{ write := false, a := 0x12, b := 0x3456, l := 0x40, n := 40, crcSel := .x, pod := false,
         silent := false, started := false, pos := 0, crc := 0 }] := by decide
theorem test_dma1w_alternate : ran (withRegs [(52, 0x0230)]) 0x68021005
    (fun t => t.q1.map fun c => (c.write, c.n, c.crcSel)) = some [(true, 48, .x)] := by decide
theorem test_dma1w_odd : stops (withRegs [(5, 1), (52, 0x0230)]) 0x68021005 =
    some .dmaAlignment := by decide
theorem test_dma2r_burst : ran (withRegs [(6, 0x80)]) 0x70811A07
    (fun t => t.q2.map fun c => (c.write, c.n)) = some [(false, 16)] := by decide
theorem test_dma2r_nonburst : stops State.reset 0x70811A07 = some .port2NonBurstCount := by decide
theorem test_dma2w_gather : ran State.reset 0x78141A07
    (fun t => t.q2.map fun c => (c.write, c.l, c.n)) = some [(true, 0x400, 2)] := by decide
theorem test_dma1r_plus : ran (withRegs [(50, 0x03C8)]) 0x65421205
    (fun t => (t.q1.map fun c => c.n, t.plus)) =
    some ([40], [{ r := 50, new := 0x0208, age := 0 }]) := by decide
theorem test_dma1w_plus : ran (withRegs [(48, 0x03C0)]) 0x6D8012C5
    (fun t => (t.q1.map fun c => (c.n, c.crcSel, c.pod), t.plus)) =
    some ([(48, .y, true)], [{ r := 48, new := 0x0200, age := 0 }]) := by decide
theorem test_dma2r_plus : ran (withRegs [(6, 0x80), (49, 0x0040)]) 0x76011A47
    (fun t => (t.q2.map fun c => (c.n, c.pod), t.plus)) =
    some ([(64, true)], [{ r := 49, new := 0x0080, age := 0 }]) := by decide
theorem test_dma2w_plus : ran (withRegs [(49, 0x01C0)]) 0x7C111A07
    (fun t => (t.q2.map fun c => (c.write, c.n), t.plus)) =
    some ([(true, 2)], [{ r := 49, new := 0x0000, age := 0 }]) := by decide

/-! ### Fast Memory (95_test_vectors 2.5) -/

theorem test_lmfm_job : ran (withRegs [(10, 3), (11, 0xCAE3)]) 0x55092A0B
    (fun t => (t.fmJobs, t.linkAdrs ++ (0 : BitVec 1))) =
    some ([{ addr := 0x3CAE0, n := 16, rd := 16, lnk := true, k := 0, acc := none }],
      (0x3CAE0 : BitVec 20)) := by decide
theorem test_lmfm_stops : stops State.reset 0x55410021 = some .zbitDestination ∧
    stops State.reset 0x55C800A1 = some .linkLimit ∧
    stops (withRegs [(1, 0x444)]) 0x55C80081 = some .linkMisaligned ∧
    stops (withRegs [(1, 0x438)]) 0x55000101 = some .fmBurstCross ∧
    stops (withRegs [(1, 0x442)]) 0x55000041 = some .fmBurstAlign := by decide
theorem test_shfm_posts : ran { withRegs [(16, 1), (17, 0x2344), (56, 0xBEEF)] with mode := 0x10 }
    0x5C004011 (fun t => t.wbuf) = some [(0x12344, 0xBEEF)] := by decide
theorem test_srh_holder : ran { withRegs [(44, 0x1234)] with holdX := 0x3CAE0 } 0x5C140140
    (fun t => t.wbuf) = some [(0x3CAEA, 0x1234)] := by decide
theorem test_fmc_delivers : moved { State.reset with
      fm := [(0x100, 0x1A), (0x101, 0xBC)]
      fmJobs := [{ addr := 0x100, n := 1, rd := 16, lnk := true, k := 0, acc := none }] }
    .fmcLoad (fun t => (t.regs[16], t.regs[58], t.fmJobs)) = some (0x1ABC, 0x0ABC, []) := by decide
theorem test_fmc_drains : moved { State.reset with wbuf := [(0x100, 0xBEEF)] } .fmcDrain
    (fun t => (t.fm, t.wbuf)) = some ([(0x100, 0xBE), (0x101, 0xEF)], []) := by decide

/-! ### The internal RAM (46 R401; 95_test_vectors 1.7 and 2.6) -/

theorem test_ld_target : ran (withRegs [(48, 0x48)]) 0x40D000A0 (fun t => t.lsu) =
    some [.load1 0x0042 13 false] := by decide
theorem test_ldd_swap : ran State.reset 0x44040C00 (fun t => t.lsu) =
    some [.load2 0x0400 1 0 true false] := by decide
theorem test_st_target : ran (withRegs [(10, 0xAA55), (49, 0x40)]) 0x48012940 (fun t => t.lsu) =
    some [.store1 0x0054 0xAA55] := by decide
theorem test_std_swap : ran (withRegs [(0, 0xAA55), (1, 0xBB66)]) 0x4C340001 (fun t => t.lsu) =
    some [.store2 0x0400 0x66BB 0x55AA false] := by decide
theorem test_load_store_stops : stops State.reset 0x40040800 = some .swapUndefined ∧
    stops State.reset 0x47F00000 = some .operandClass ∧
    stops (withRegs [(48, 0x800)]) 0x48100000 = some .scoreboardSwap ∧
    stops (withRegs [(48, 0x800)]) 0x48000000 = some .scoreboardHalfwordStore ∧
    stops (withRegs [(48, 0x480)]) 0x40100000 = some .gatherOutOfRange := by decide

/-- The manual's load and store tables: 0x400 holds aa55 and 0x402 holds bb66 (95 S50). -/
def gathered : Sparse Byte := [(0x38, 0xAA), (0x39, 0x55), (0x3A, 0xBB), (0x3B, 0x66)]

theorem test_ldd_lands : moved { State.reset with cb := gathered, lsu := [.load2 0x400 1 0 true false] }
    .lsu (fun t => (t.regs[1], t.lsu)) = some (0x55AA, [.load2 0x400 1 0 true true]) ∧
    moved { State.reset with cb := gathered, lsu := [.load2 0x400 1 0 true true] } .lsu
      (fun t => (t.regs[0], t.lsu)) = some (0x66BB, []) := by decide
theorem test_st_lands : moved { State.reset with lsu := [.store1 0x0426 0xAA55] } .lsu
    (fun t => t.cb) = some [(0x13E, 0xAA), (0x13F, 0x55)] := by decide

/-! ### Hazards, registers and boot (70 R590; 95_test_vectors 2.8) -/

theorem test_rla_window : stops { withRegs [(48, 0x40)] with
    recs := [{ key := .reg 48, old := 0, e := 0, x := 0, kind := .plain }] } 0x40100000 =
    some (.writeDelayHazard 48 0) := by decide
theorem test_rla_alu_exempt : ran { withRegs [(48, 0x40)] with
    recs := [{ key := .reg 48, old := 0, e := 0, x := 0, kind := .plain }] } 0x9020C3C2
    (fun t => t.regs[2]) = some 0x42 := by decide
theorem test_r60_window : stops { State.reset with
    recs := [{ key := .reg 60, old := 0, e := 1, x := 0, kind := .plain }] } 0x24010001 =
    some (.writeDelayHazard 60 1) := by decide
theorem test_mode_bits : ran State.reset 0xFEA00089 (fun t => t.mode) = some 0x0200 ∧
    ran { State.reset with mode := 0x0300 } 0xFEA00008 (fun t => t.mode) = some 0x0200 ∧
    stops State.reset 0xFEA00082 = some .reservedModeBit := by decide
theorem test_bit_swap : readVal .other (withRegs [(56, 0xBEEF)]) 43 = 0xF77D := by decide
theorem test_hec8 : hec8 Config.standard 0x12345678 = 0x49 ∧ hec8 Config.standard 1 = 0x52 := by
  decide
theorem test_crc32 : crc32Step Config.standard 0xFFFFFFFF 0 = 0x00B7647D ∧
    crc32Step Config.standard (crc32Step Config.standard 0x49E3C2FB 0xB61C) 0x3D04 =
      0xC704DD7B := by decide
theorem test_r36_stuck : ran State.reset 0xD4209000 (fun t => (t.stuck, t.pc)) =
    some (true, 0) := by decide

-- The register rules that a repair of this model touched.
-- 93 row 10: ones written to a reserved bit of R53 stop the machine.
theorem test_r53_reserved : writeCheck State.reset 53 0x0080 =
    .error (.fault .reservedFieldWrite) ∧ writeCheck State.reset 53 0x003F = .ok () := by decide
-- 10 R60: a control byte whose target is a live bit of R57 changes nothing.
theorem test_r57_live_target : writeReg State.reset State.reset 57 0x0087 = State.reset := by decide
-- 70 R551: R57 bits 9 and 8 read 0 at the first user instruction.
theorem test_r57_reset : (readVal .alu State.reset 57).extractLsb' 8 2 = 0 := by decide
-- 43 R299: CR written as 1 while it is 1 makes the Scoreboard unwritten again.
theorem test_css_reset_again : (writeReg State.reset
    { withRegs [(60, 0x4000)] with sb := [(3, true)] } 60 0x4000).sb = [] := by decide
-- 10 R45(a), 70 R563(b): in bit-swap mode a read of R43 waits for a load owed to R56.
theorem test_r43_waits : readCheck .alu { State.reset with lsu := [.load1 0 56 false] } 43 =
    .error .stall ∧ readCheck .alu { State.reset with mode := 0x0100,
                                                      lsu := [.load1 0 56 false] } 43 = .ok () := by
  decide
-- 70 R561: Update Memory and the fetch look at mode bit 4, not before two instructions are past.
theorem test_mode4_window :
    let s := { State.reset with
      recs := [{ key := .modeBit 4, old := 0, e := 0, x := 0, kind := .plain }] }
    modeRead s 4 = .error (.fault (.writeDelayHazard 42 0)) ∧
      stops s 0xFE400000 = some (.writeDelayHazard 42 0) ∧
      stops s 0xDC000000 = some .undefinedOpcode := by decide
-- 60 R523(6): the named sources come before the mode bit that the first of them implies.
theorem test_source_order : sourceCheck .alu { State.reset with
      recs := [{ key := .modeBit 11, old := 0, e := 0, x := 0, kind := .plain }]
      popcShadow := some 10 } [54, 10] = .error (.fault .popcShadowAccess) := by decide
-- 60 R523(6): an ordered LMFM destination R33 whose HEC8 has only its first input is unwritten first.
theorem test_unwritten_order : (sourceCheck .alu { State.reset with
      mode := 0x0200, hecPhase := .seeded
      fmJobs := [{ addr := 0x100, n := 2, rd := 32, lnk := false, k := 0, acc := none }] } [33] =
        .error (.fault .unwrittenRead)) ∧
    (sourceCheck .alu { State.reset with
      fmJobs := [{ addr := 0x100, n := 2, rd := 32, lnk := false, k := 0, acc := none }] } [33] =
        .error (.fault .lmfmOrder)) := by decide
-- 45 R364, 51 R468: a DMA with a CRC pair and a read of R57 are accesses to the pair.
theorem test_pair_access :
    let j : LmfmJob := { addr := 0x100, n := 2, rd := 44, lnk := false, k := 0, acc := none }
    let o : DmaOp := { port2 := false, write := false, bc := 4, rla := .r48, rsa := 1, ibi := true,
                       crcx := true, pod := false, rsb := 2 }
    dmaReadCheck { State.reset with fmJobs := [j] } o = .error .stall ∧
      dmaReadCheck { State.reset with fmJobs := [{ j with k := 1 }] } o =
        .error (.fault .lmfmOrder) ∧
      readCheck .alu { State.reset with fmJobs := [j] } 57 = .error .stall ∧
      (44 ∈ dmaRegs State.reset o ∧ 44 ∈ readRegs State.reset 57) := by decide
-- 92 D55: the halfword of a byte set aside is unwritten.
theorem test_residue_unwritten : moved { State.reset with
      cb := [(0x42, 1), (0x43, 2)], p1 := [(0x800002, 3)]
      q1 := [{ write := false, a := 0x80, b := 0, l := 0x40, n := 3, crcSel := .none, pod := false,
               silent := false, started := true, pos := 2, crc := 0 }] } .dma1
    (fun t => (t.residue, readHalf t.cb 0x42)) = some (some 3, none) := by decide
-- 42 R270: after the first halfword of a linked LMFM has arrived, BF may use R58 at once.
theorem test_shadow_ready : moved { State.reset with
      fm := [(0x100, 0x01), (0x101, 0x23)]
      fmJobs := [{ addr := 0x100, n := 1, rd := 16, lnk := true, k := 0, acc := none }] } .fmcLoad
    (fun t => (t.regs[58], readCheck .branch t 58 == .ok (),
      readCheck .other t 58 == .error (.fault (.writeDelayHazard 58 0)))) =
    some (0x0123, true, true) := by decide

/-- Row 17 of 70 R590. -/
theorem test_boot : (match boot Config.standard 0x0100 [0xFE40, 0x0002, 0xFE40, 0x0000] with
    | .next t => some (t.pc, t.regs[53], t.mode, t.regs[40], t.coutRdy, t.fm.length)
    | _ => none) = some (0x100, 0, 2, 0xFD86, true, 8) := by decide
theorem test_boot_stops : (bootChecks Config.standard 0x7800 [0xFE40, 2]).any id = true ∧
    (bootChecks Config.standard 0x0100 [0xFC00, 0]).any id = true ∧
    (bootChecks Config.standard 0x0100 [0xFE40, 0x12, 0xFE40, 0]).any id = true := by decide

/-! ### Devices (50 R440; 52 R501; 60 R531) -/

theorem test_pit : moved { withRegs [(54, 1)] with mode := 0x0800, pitInit0 := 3 } (.pit 0)
    (fun t => (t.regs[54], t.regs[57])) = some (0, 0x0010) ∧
    moved { withRegs [(54, 0)] with mode := 0x0800, pitInit0 := 3 } (.pit 0)
      (fun t => (t.regs[54], t.regs[57])) = some (3, 0) := by decide
-- 60 R531: a rise of ICSI_D that a latch has seen still clocks PIT0, once, and the tick latches nothing.
theorem test_pit_pin :
    let s := { withRegs [(54, 3), (63, 0x0F00)] with mode := 0x0900, opts := 0x14, pitInit0 := 3 }
    let u := icsLatchStep (icsiStep s 8)
    moved u (.pit 0) (fun t => (t.regs[54], t.pitEdges0, t.icsiPrev)) = some (2, 0, 8) ∧
      moved u (.pit 0) (fun t => moved t (.pit 0) State.pc) = some none ∧
      moved (icsiStep s 8) (.pit 0) (fun t => (icsLatchStep t).regs[57]) = some 0 := by decide
theorem test_commin : moved State.reset (.comminWrite 0x12345678)
    (fun t => (t.regs[40], t.regs[41], t.cinBusy)) = some (0x1234, 0x5678, true) := by decide
theorem test_commout : moved State.reset .commoutRead (fun t => t.coutRdy) = some false := by decide
theorem test_ics_latch : moved { withRegs [(63, 0x0100)] with icsi := 3, icsiPrev := 3 } .icsLatch
    (fun t => t.regs[57]) = some 1 := by decide

/-- Header bytes 00 51 23 45 under five masks (50 R428). -/
def header : List Byte := [0x00, 0x51, 0x23, 0x45] ++ List.replicate 48 0

theorem test_reduction : reduce 0b0000001 header = .ok 0x0269 ∧
    reduce 0b0001111 header = .ok 0x0A69 ∧ reduce 0b1111000 header = .ok 0x5469 ∧
    reduce 0b1000000 header = .ok 0xA469 ∧ reduce 0 header = .ok 0x2469 ∧
    reduce 0b0000101 header = .error (.fault .reservedReductionMask) := by decide

/-- A cell of PTI 010 and no errors: HE and CE are 0 (50 R429). -/
def cell3 : RxCell :=
  { phy := 3, img := [0, 0, 0, 4] ++ List.replicate 48 0, hec := some (hec8 Config.standard 4),
    k := 26 }

theorem test_status : hecError State.reset cell3 = false ∧
    crc10 Config.standard (sarPdu cell3.img) = 0 ∧
    (headerByte cell3.img 3).extractLsb' 1 3 = 2 := by decide
theorem test_utopia_config : stops State.reset 0xFFE00012 = some .utopiaConfig := by decide
theorem test_tx_counts : stops { at10 [(62, 0x0030)] with txfull := 4 } 0x03CC3300 =
    some .counterRange ∧
    ran { at10 [(62, 0x0030)] with txfull := 3 } 0x03CC3300 (fun t => (t.txfull, ess t 10)) =
      some (4, true) := by decide

/-! ### Witnesses: states and operands that meet the hypotheses of the statements -/

theorem pendingForm_reset : PendingForm State.reset := by
  refine ⟨?_, ?_, ?_⟩ <;> intro p h <;> cases h

/-- At reset every flow an ALU instruction can set up is possible. -/
theorem flowReady_reset (b : Option (Bool × Bool)) : FlowReady State.reset b := by
  have h4 : readsComm State.reset 4 = false ∧ readsComm State.reset 5 = false := by decide
  have h0 : offset State.reset.pc = 0 := by decide
  match b with
  | none => exact ⟨fun _ => by rw [h0]; decide, fun c h => by cases h⟩
  | some (taken, ae) => exact ⟨by rw [h0]; decide, fun _ _ => h4⟩

/-- At reset the sources R1 and R2 are ready, and an instruction without sources can be fetched. -/
theorem sourcesReady_reset : SourcesReady .alu State.reset [1, sw 2] ∧
    SourcesReady .alu State.reset [1] ∧ SourcesReady .alu State.reset [] := by
  unfold SourcesReady Readable
  decide

/-- At reset an ALU instruction of R1 and R2 that writes R3 is ready, whatever its result, its branch
and its write-back. -/
theorem aluReady_reset (um : Bool) (res : Half) (b : Option (Bool × Bool)) :
    AluReady State.reset [1, sw 2] 3 um res b ∧ AluReady State.reset [1] 3 um res b ∧
      AluReady State.reset [] 3 um res b ∧ AluReady State.reset [] 36 false res b := by
  have hu : UmReady State.reset 3 := by unfold UmReady; decide
  have hd : destCheck State.reset 3 = .ok () := by decide
  have he : destCheck State.reset 36 = .ok () := by decide
  obtain ⟨h2, h1, h0⟩ := sourcesReady_reset
  exact ⟨⟨h2, ⟨by decide, hd, rfl⟩, flowReady_reset b, fun _ => hu⟩,
    ⟨h1, ⟨by decide, hd, rfl⟩, flowReady_reset b, fun _ => hu⟩,
    ⟨h0, ⟨by decide, hd, rfl⟩, flowReady_reset b, fun _ => hu⟩,
    ⟨h0, ⟨by decide, he, rfl⟩, flowReady_reset b, by simp⟩⟩

/-- An instruction that moves the pc has completed. -/
theorem completes_of_pc {i : Instr} {s t : State} (e : exec i s = .next t) (h : t.pc ≠ s.pc) :
    Completes i s t :=
  ⟨e, fun k => h ((congrArg State.pc k).trans rfl), fun k => h ((congrArg State.pc k).trans rfl)⟩

theorem witness_DecodeOfEncode : (Instr.add 63 true .bno 63 15 true 31).wf true = true ∧
    (Instr.dma2wPlus 127 .gd 63 true true 31).wf true = true ∧
    (Instr.dma1r 255 .gd 63 true true true true true 31).wf false = true := by decide

theorem witness_EncodeOfDecode : decode true true 0x66421205 =
    .ok (.dma1rPlus 72 .r50 4 true false false false false 5) := by decide

theorem witness_UndefinedOpcodes :
    decode State.reset.cfg.strictReserved (modeVal State.reset 5) 0xDC000000 =
      .error .undefinedOpcode := by decide

/-- A NOP after reset, a TSET and a BI in the slot of a Branch, and a BI in that of a taken ALU branch. -/
theorem witness_StepRunsDecoded :
    (let s := State.reset.withFetchWord 32 0xFE400000
     s.agenda = [] ∧ s.turn = .swan ∧ s.stuck = false ∧ fetchWord s = .ok 0xFE400000 ∧
      segmentBad s 0xFE400000 = false ∧ decodeAt s 0xFE400000 = .ok .nop ∧ s.ctag = .seq ∧
      (encode .nop).extractLsb' 16 3 = 0) ∧
    (let s := { State.reset with ctag := .bslot }.withFetchWord 32 0xD2460401
     s.agenda = [] ∧ s.turn = .swan ∧ s.stuck = false ∧ fetchWord s = .ok 0xD2460401 ∧
      segmentBad s 0xD2460401 = false ∧ decodeAt s 0xD2460401 = .ok (.tset 1 1) ∧
      (encode (.tset 1 1)).getLsbD 31 = true ∧ (encode (.tset 1 1)).extractLsb' 16 3 ≠ 0) ∧
    (let s := { State.reset with ctag := .aslotT }.withFetchWord 32 0x03C00200
     fetchWord s = .ok 0x03C00200 ∧ decodeAt s 0x03C00200 = .ok (.bi 15 false false .none 0x200) ∧
      ((encode (.bi 15 false false .none 0x200)).extractLsb' 26 6).toNat < 6 ∧
      (encode (.bi 15 false false .none 0x200)).extractLsb' 22 4 = 15) := by decide

theorem witness_ModuloMerge : (1 ≤ 1 ∧ 1 ≤ 16) ∧ (1 ≤ 16 ∧ 16 ≤ 16) := by decide

theorem witness_AddSubResult : PendingForm State.reset ∧ SignTest .bgez (modWidth 15) ∧
    SignTest .bz (modWidth 0) ∧
    AluReady State.reset [1, sw 2] 3 true 5 (arithBranch .bz 1 5 false true) ∧
    AluReady State.reset [1] 3 true 5 (arithBranch .bgez 16 5 true false) :=
  ⟨pendingForm_reset, by unfold SignTest; decide, by unfold SignTest; decide,
    (aluReady_reset true 5 _).1, (aluReady_reset true 5 _).2.1⟩

theorem witness_LogicResult : PendingForm State.reset ∧ SignTest .blz (modWidth 15) ∧
    AluReady State.reset [1, sw 2] 3 true 5 (arithBranch .blz 16 5 false true) ∧
    AluReady State.reset [1] 3 false 5 (arithBranch .none 16 5 false false) :=
  ⟨pendingForm_reset, by unfold SignTest; decide, (aluReady_reset true 5 _).1,
    (aluReady_reset false 5 _).2.1⟩

theorem witness_MaxMinResult : PendingForm State.reset ∧
    CompareTest State.reset 6 (modWidth 15) ∧ CompareTest State.reset 0 (modWidth 0) ∧
    AluReady State.reset [1, sw 2] 3 true 5 (cmpBranch State.reset 6 .lt true) ∧
    AluReady State.reset [1] 3 true 5 (cmpBranch State.reset 1 .gt false) :=
  ⟨pendingForm_reset, by unfold CompareTest; decide, by unfold CompareTest; decide,
    (aluReady_reset true 5 _).1, (aluReady_reset true 5 _).2.1⟩

theorem witness_CompareResult : CompareTest State.reset 1 16 ∧ CompareTest State.reset 0 16 ∧
    CompareReady State.reset [1, sw 2] (cmpBranch State.reset 1 .lt true) ∧
    CompareReady State.reset [1] (cmpBranch State.reset 0 .eq false) :=
  ⟨by unfold CompareTest; decide, by unfold CompareTest; decide,
    ⟨(aluReady_reset true 5 none).1.1, flowReady_reset _⟩,
    ⟨(aluReady_reset true 5 none).2.1.1, flowReady_reset _⟩⟩

theorem witness_ShiftResult : PendingForm State.reset ∧ SignTest .blz (modWidth 15) ∧
    (readVal .alu State.reset (sw 2)).getLsbD 4 = false ∧
    AluReady State.reset [1, sw 2] 3 true 5 (arithBranch .blz 16 5 false false) ∧
    AluReady State.reset [1] 3 true 5 (arithBranch .bno 16 5 false true) :=
  ⟨pendingForm_reset, by unfold SignTest; decide, by decide, (aluReady_reset true 5 _).1,
    (aluReady_reset true 5 _).2.1⟩

theorem witness_ShiftResult_ambiguous :
    let s := withRegs [(2, 0x10)]
    SignTest .none (modWidth 15) ∧ (3 : Reg) ≠ 61 ∧ Readable .alu s 1 ∧ Readable .alu s (sw 2) ∧
      modeRead s 4 = .ok () ∧ destCheck s 3 = .ok () ∧ writeUse s 3 = .ok () ∧
      (readVal .alu s (sw 2)).getLsbD 4 = true := by
  unfold SignTest Readable
  decide

theorem witness_ShiftBits : 0 < 16 ∧ 15 < 16 ∧ 0 ≤ (15 : BitVec 5).toInt ∧
    (16 : BitVec 5).toInt < 0 := by decide

theorem witness_FindLoadNop : PendingForm State.reset ∧ (1 : Half) ≠ 0 ∧
    AluReady State.reset [1] 3 true 5 (arithBranch .bgez 16 5 false true) ∧
    AluReady State.reset [] 3 true 5 (arithBranch .none 16 5 false false) ∧
    AluReady State.reset [] 36 false 0 none :=
  ⟨pendingForm_reset, by decide, (aluReady_reset true 5 _).2.1, (aluReady_reset true 5 _).2.2.1,
    (aluReady_reset true 0 _).2.2.2⟩

theorem witness_TestBranches : PendingForm State.reset ∧
    AluReady State.reset [1] 36 false 1 (some (true, false)) ∧
    AluReady State.reset [1] 36 false 0 (some (false, false)) :=
  ⟨pendingForm_reset,
    ⟨(aluReady_reset true 5 none).2.1.1, ⟨by decide, by decide, rfl⟩, flowReady_reset _, by simp⟩,
    ⟨(aluReady_reset true 5 none).2.1.1, ⟨by decide, by decide, rfl⟩, flowReady_reset _, by simp⟩⟩

theorem witness_OverflowWriters :
    let s := withRegs [(1, 0x7FFF), (2, 1)]
    (∃ t, exec (.add 3 false .none 1 15 false 2) s = .next t ∧ t.ovf ≠ s.ovf) ∧
      ∃ t, perform s .icsLatch = .ok t :=
  ⟨⟨_, rfl, by decide⟩, _, rfl⟩

/-- A branch that is not taken and nullifies, one through R59 with a link, and one with a counter. -/
theorem witness_BranchResult :
    BranchReady State.reset false (.imm 5) 9 true true .none ∧
      BranchReady State.reset true (.reg 59) 15 false false .none ∧
      BranchReady State.reset true (.reg 58) 15 false true .none ∧
      BranchReady { State.reset with rxbusy := 1 } false (.imm 5) 9 true false .drxbusy ∧
      BranchReady { State.reset with rxfull := 1 } true (.imm 5) 9 false false .drxfull ∧
      BranchReady (withRegs [(62, 0x0030)]) false (.reg 59) 15 true true .itxbusy ∧
      BranchReady { withRegs [(62, 0x0030)] with txfull := 3 } false (.reg 58) 10 false false
        .itxfull := by
  unfold BranchReady CsoReady Readable
  refine ⟨⟨?_, ?_, ⟨?_, ?_⟩, ?_⟩, ⟨?_, ?_, ⟨?_, ?_⟩, ?_⟩, ⟨?_, ?_, ⟨?_, ?_⟩, ?_⟩,
    ⟨?_, ?_, ⟨?_, ?_⟩, ?_⟩, ⟨?_, ?_, ⟨?_, ?_⟩, ?_⟩, ⟨?_, ?_, ⟨?_, ?_⟩, ?_⟩, ⟨?_, ?_, ⟨?_, ?_⟩, ?_⟩⟩
  all_goals decide

/-- The effect of a branch from reset, for each case of the statement; and a written word at N+1. -/
theorem witness_BranchOrder :
    (∃ t, BranchDone State.reset t false (.imm 5) 15 false false .none) ∧
      (∃ t, BranchDone State.reset t false (.imm 5) 15 false true .none) ∧
      (∃ t, BranchDone State.reset t false (.imm 5) 9 false true .none) ∧
      (∃ t, BranchDone State.reset t false (.imm 5) 9 true false .none) ∧
      ∃ t, BranchDone State.reset t false (.imm 5) 9 true true .none := by
  have key : ∀ (e : Fin 16) (sense c : Bool),
      BranchReady State.reset false (.imm 5) e sense c .none →
      ∃ t, BranchDone State.reset t false (.imm 5) e sense c .none := fun e sense c h =>
    let ⟨t, _, d⟩ := runBranch_ready h
    ⟨t, d⟩
  refine ⟨key _ _ _ ?_, key _ _ _ ?_, key _ _ _ ?_, key _ _ _ ?_, key _ _ _ ?_⟩
  all_goals
    unfold BranchReady CsoReady
    refine ⟨by decide, by decide, ⟨by decide, trivial⟩, ?_, by decide, by decide, by decide, by decide⟩
    intro r h
    cases h

theorem witness_BranchOrder_word :
    let s := { State.reset with fm := [(4, 0xFE), (5, 0x40), (6, 0), (7, 0)] }
    buffered s (4 * (s.pc + 1).toNat) = none ∧ buffered s (4 * (s.pc + 1).toNat + 2) = none ∧
      readHalf s.fm (4 * (s.pc + 1).toNat) = some 0xFE40 ∧
      readHalf s.fm (4 * (s.pc + 1).toNat + 2) = some 0 := by decide

theorem witness_StateSignals : State.reset.recs = [] ∧ State.reset.cinLag = none ∧
    State.reset.coutLag = none ∧ State.reset.dmaLag = none ∧
    ∀ r : Reg, accessOne State.reset r = .ok () := by decide

theorem witness_CssDispatch : (31 : Reg).val < 32 ∧ destCheck State.reset 31 = .ok () ∧
    CssReady State.reset [sw 2] ∧ CssReady State.reset [63, sw 2] ∧ State.reset.popfAge = none := by
  unfold CssReady SourcesReady Readable CanAdvance
  and_intros <;> decide

theorem witness_CssStops :
    32 ≤ (32 : Reg).val ∧
      (let s := withRegs [(60, 0x4000)]
       Readable .other s (sw 2) ∧ Readable .other s 1 ∧ impliedUse s 60 2 = .ok () ∧
        (useVal s (.reg 60) 2 s.regs[60]).getLsbD 14 = true ∧ destCheck s 31 = .ok ()) ∧
      (let s := { State.reset with
          popfAge := some 0,
          cssq := [{ kind := .popf, t := 0, cid := 0, rd := 0 },
            { kind := .popf, t := 0, cid := 0, rd := 0 }] }
       Readable .other s (sw 2) ∧ Readable .other s 1 ∧ impliedUse s 60 2 = .ok () ∧
        (useVal s (.reg 60) 2 s.regs[60]).getLsbD 14 = false ∧ s.popfAge ≠ none ∧ CanAdvance s ∧
        2 ≤ s.cssq.length ∧ { s with popfAge := none }.popfAge = none ∧
        CanAdvance { s with popfAge := none } ∧ destCheck s 31 = .ok ()) := by
  unfold Readable CanAdvance
  decide

theorem witness_PopAction :
    let s := { cssAt { kind := .popc, t := 0x3FFF, cid := 0, rd := 10 } [(0x3FFF, true)] with
      fm := [(0x7FFE, 0x3C), (0x7FFF, 0xA0)] }
    s.cssq = [{ kind := .popc, t := 0x3FFF, cid := 0, rd := 10 }] ∧
      Memory.read s.sb 0x3FFF = some true ∧ cidAddr s 0x3FFF < fmLimit s (modeBit s 4) ∧
      buffered s (cidAddr s 0x3FFF) = none ∧
      readHalf s.fm (cidAddr s 0x3FFF) = some 0x3CA0 := by decide

theorem witness_PopAction_popf : Memory.read
    (cssAt { kind := .popf, t := 0, cid := 0, rd := 0 } [(0, false)]).sb 0 = some false := by decide

/-- The slot itself is Available (k = 0). -/
theorem witness_PushAction :
    let s := cssAt { kind := .pushc, t := 5, cid := 7, rd := 0 } [(5, false)]
    Memory.read s.sb (5 - 5 % 2048 + (5 % 2048 + 0) % 2048) = some false ∧
      cidAddr s 5 < fmLimit s (modeBit s 4) ∧ s.wbuf.length < 4 ∧
      2048 * 2 ^ (s.regs[60].extractLsb' 12 2).toNat = 2048 := by decide

/-- The search goes around the end of section 1 (k = 1), from its last slot. -/
theorem witness_PushAction_wraps :
    let s := cssAt { kind := .pushf, t := 4095, cid := 0, rd := 0 } [(2048, false), (4095, true)]
    (∀ j, j < 1 →
      Memory.read s.sb (4095 - 4095 % 2048 + (4095 % 2048 + j) % 2048) = some true) ∧
      Memory.read s.sb (4095 - 4095 % 2048 + (4095 % 2048 + 1) % 2048) = some false := by decide

theorem read_reserved (n : Nat) : ∀ (m a : Nat), m ≤ a → a < m + n →
    Memory.read ((List.range' m n).map fun k => (k, true)) a = some true := by
  induction n with
  | zero => intro m a h1 h2; omega
  | succ n ih =>
    intro m a h1 h2
    simp only [List.range'_succ, List.map_cons, Memory.read]
    split
    · rfl
    · exact ih (m + 1) a (by omega) (by omega)

/-- Every slot of section 0 is reserved. -/
theorem witness_PushAction_full :
    let s := cssAt { kind := .pushf, t := 0, cid := 0, rd := 0 }
      ((List.range' 0 2048).map fun k => (k, true))
    ∀ j, j < 2048 → Memory.read s.sb (0 - 0 % 2048 + (0 % 2048 + j) % 2048) = some true := by
  intro s j h
  have e : 0 - 0 % 2048 + (0 % 2048 + j) % 2048 = j := by omega
  rw [e]
  exact read_reserved 2048 0 j (by omega) (by omega)

/-- The DMA test operations: `n` bytes of Port1 or Port2 at R48, with a post-DMA operation. -/
def dmaOpAt (port2 write plus : Bool) (n : Nat) : DmaOp :=
  { port2 := port2, write := write, bc := n, rla := .r48, rsa := 4, ibi := true, pod := true,
    rsb := 5, plus := plus }

/-- A command as it waits in a queue. -/
def cmdAt (write : Bool) (n : Nat) : DmaCmd :=
  { write := write, a := 0x80, b := 0, l := 0x40, n := n, crcSel := .none, pod := true,
    silent := false, started := false, pos := 0, crc := 0 }

/-- R4 names a Port2 burst and R48 is `l`. -/
def dmaAt (l : Half) (q : List DmaCmd) : State :=
  { withRegs [(4, 0x80), (48, l)] with q1 := q, q2 := q }

theorem witness_DmaIssue : DmaReady (dmaAt 0x40 []) (dmaOpAt false false false 255) ∧
    DmaReady (dmaAt 0x40 []) (dmaOpAt false true false 0) ∧
    DmaReady (dmaAt 0x300 [cmdAt true 2, cmdAt true 2]) (dmaOpAt true false false 255) ∧
    DmaReady (dmaAt 0x3FE []) (dmaOpAt true true false 2) := by
  unfold DmaReady DmaFormed DmaReadable DmaControl LocalRange Port1Form Port2Form SourcesReady
    Readable CanAdvance
  and_intros <;> decide

theorem witness_DmaPlusIssue : DmaReady (dmaAt 0x40 []) (dmaOpAt false false true 127) ∧
    DmaReady (dmaAt 0x40 []) (dmaOpAt false true true 0) ∧
    DmaReady (dmaAt 0x40 []) (dmaOpAt true false true 126) ∧
    DmaReady (dmaAt 0x40 []) (dmaOpAt true true true 2) ∧
    PlusReady (dmaAt 0x40 []) (dmaOpAt false false true 127) 48 ∧ rlaReg .ga = none ∧
    DmaControl (dmaAt 0x40 []) (dmaOpAt true true true 2) := by
  unfold DmaReady DmaFormed DmaReadable DmaControl LocalRange Port1Form Port2Form SourcesReady
    Readable CanAdvance PlusReady
  and_intros <;> decide

/-- The count of R52 is used, and rounded down, by a DMA1W without IBI; Port2 ignores its CRC bits. -/
theorem witness_DmaCommandCount :
    let s := withRegs [(52, 0x0205)]
    let o : DmaOp := { port2 := false, write := true, bc := 0, rla := .r48, rsa := 4, ibi := false,
                       pod := false, rsb := 5 }
    (dmaCmdOf s o).n = 4 ∧ (dmaCmdOf s o).crcSel = .x ∧
      (dmaCmdOf s { o with write := false }).n = 5 ∧
      (dmaCmdOf s { o with port2 := true }).crcSel = .none ∧ o.rla = .r48 := by decide

/-- The waiting clause of DmaIssue and DmaPlusIssue. -/
theorem witness_DmaIssue_waits :
    let q := [cmdAt true 2, cmdAt true 2, cmdAt true 2]
    DmaFormed (dmaAt 0x40 q) (dmaOpAt false false false 8) ∧
      DmaFormed (dmaAt 0x40 q) (dmaOpAt true true true 8) ∧
      (∃ r, PlusReady (dmaAt 0x40 q) (dmaOpAt true true true 8) r) ∧
      3 ≤ (queueOf (dmaAt 0x40 q) true).length := by
  refine ⟨?_, ?_, ⟨48, ?_⟩, by decide⟩
  all_goals
    first
      | (unfold DmaFormed DmaReadable DmaControl LocalRange Port1Form Port2Form SourcesReady Readable
          CanAdvance
         and_intros <;> decide)
      | (unfold PlusReady; decide)

/-- One pending increment, of `age` instructions. -/
def plusAt (age : Nat) : State :=
  { State.reset with plus := [{ r := 48, new := 0x0208, age := age }] }

theorem witness_PlusSchedule : ∀ age : Nat, age = 0 ∨ age = 1 →
    PendingForm (plusAt age) ∧ (plusAt age).plus = [{ r := 48, new := 0x0208, age := age }] ∧
      AluReady (plusAt age) [] 36 false 0 none ∧ (∃ t, Completes (.limd 3 false 7) (plusAt age) t) := by
  rintro age (rfl | rfl)
  all_goals
    refine ⟨⟨?_, ?_, ?_⟩, rfl, ⟨⟨by decide, by simp⟩, ⟨by decide, by decide, rfl⟩, ⟨fun _ => by decide, ?_⟩,
      by simp⟩, _, completes_of_pc (s := plusAt _) rfl (by decide)⟩
    · intro p h
      rcases List.mem_cons.1 h with rfl | h
      · decide
      · cases h
    · intro c h
      cases h
    · intro o h
      cases h
    · intro c h
      cases h

/-- A started command that has moved `pos` of its four bytes. -/
def movingAt (write silent : Bool) (n pos : Nat) (sel : CrcSel) : DmaCmd :=
  { cmdAt write n with started := true, pos := pos, silent := silent, crcSel := sel }

theorem witness_DmaPort2Moves :
    let s := { State.reset with
      q2 := [movingAt true false 4 2 .none], cb := [(0x42, 1), (0x43, 2)], p2b := [(2, 3), (3, 4)] }
    let c := movingAt true false 4 2 .none
    s.q2 = [c] ∧ c.started = true ∧ c.pos < c.n ∧ c.write = true ∧
      readHalf s.cb (cbPhys (c.l + BitVec.ofNat 16 c.pos)) = some 0x0102 ∧
      Memory.read (port2Space s c) (2 * port2Half c + c.pos) = some 3 ∧
      Memory.read (port2Space s c) (2 * port2Half c + c.pos + 1) = some 4 := by decide

/-- A halfword of a write, a halfword of a read, the last byte of an odd read, a silent read, and a read
that starts at an odd local address. -/
theorem witness_DmaPort1Moves :
    let s := { State.reset with
      cb := [(0x42, 1), (0x43, 2)], p1 := [(0x800002, 3), (0x800003, 4)] }
    let w := movingAt true true 4 2 .x
    let r := movingAt false false 4 2 .x
    let o := movingAt false false 3 2 .none
    (w.started = true ∧ w.pos < w.n ∧ w.write = true ∧ w.silent = true ∧
      readHalf s.cb (cbPhys (w.l + BitVec.ofNat 16 w.pos)) = some 0x0102) ∧
      (r.pos + 1 ≠ r.n ∧ r.write = false ∧ r.silent = false ∧ r.l.getLsbD 0 = false ∧
        Memory.read s.p1 (r.a.toNat * 0x10000 + (r.b.toNat + r.pos) % 0x10000) = some 3 ∧
        Memory.read s.p1 (r.a.toNat * 0x10000 + (r.b.toNat + (r.pos + 1)) % 0x10000) = some 4) ∧
      (o.pos < o.n ∧ o.pos + 1 = o.n ∧
        Memory.read s.p1 (o.a.toNat * 0x10000 + (o.b.toNat + o.pos) % 0x10000) = some 3) ∧
      (let q := movingAt false true 4 2 .x
       q.started = true ∧ q.pos < q.n ∧ q.write = false ∧ q.silent = true) ∧
      (let q := { movingAt false false 3 0 .x with l := 0x41, b := 2 }
       let s := { s with residue := some 9 }
       q.pos < q.n ∧ q.silent = false ∧ q.l.getLsbD 0 = true ∧ q.pos = 0 ∧ s.residue = some 9 ∧
        Memory.read s.p1 (q.a.toNat * 0x10000 + (q.b.toNat + q.pos) % 0x10000) = some 3) := by decide

theorem witness_DmaCompletes :
    let s := { withRegs [(62, 0x0030)] with rxfull := 1, txbusy := 3 }
    let w := movingAt true false 4 4 .x
    let r := movingAt false false 3 3 .y
    (w.started = true ∧ w.n ≤ w.pos ∧ (w.pod = true ∧ w.write = true) ∧ s.rxfull ≠ 0) ∧
      (r.n ≤ r.pos ∧ (r.pod = true ∧ r.write = false) ∧ s.txbusy < txSizeOf s.regs[62] ∧
        (r.silent = false ∨ r.write = true)) ∧
      (let q := movingAt false true 4 4 .x
       q.started = true ∧ q.n ≤ q.pos ∧ q.silent = true ∧ q.write = false ∧
        s.txbusy < txSizeOf s.regs[62]) := by decide

/-! Fast Memory. -/

/-- The LMFM test operation: R1 and R2 address it. -/
def lmfmAt (rd : Reg) (lnk z : Bool) (n : Nat) : LmfmOp :=
  { rd := rd, lnk := lnk, z := z, rsa := 1, n := n, rsb := 2 }

theorem witness_LmfmIssue : LmfmReady State.reset (lmfmAt 16 true true 16) ∧
    LmfmReady State.reset (lmfmAt 63 false false 1) ∧
    LmfmReady State.reset (lmfmAt 31 true false 0) ∧
    LmfmReady (withRegs [(1, 0x000F), (2, 0xFFFC)]) (lmfmAt 0 false false 0) := by
  unfold LmfmReady LmfmLegal SourcesReady Readable CanAdvance
  and_intros <;> decide

theorem witness_FmStoreIssue :
    let s := withRegs [(1, 7), (2, 0xFFFE)]
    FmStoreReady s .none [1, sw 2] 56 0x7FFFE ∧ FmStoreReady s .none [1, sw 2] 47 0x7FFFE ∧
      FmStoreReady s .none [1, sw 2] 37 0x7FFE0 ∧ FmStoreReady s .y [] 44 0x0001E := by
  unfold FmStoreReady SourcesReady Readable CanAdvance
  and_intros <;> decide

theorem witness_UpdateAddress : (16 : Reg) ∈ [(16 : Reg), 24, 28, 30, 31] ∧
    (0x08000 : BitVec 20).getLsbD 0 = false ∧
    (0x08000 : BitVec 20).extractLsb' 1 4 &&& ~~~ reg4 16 = 0 ∧ 15 < 16 - (16 : Reg).val % 16 ∧
    (31 : Reg).val = (16 : Reg).val + 15 ∧
    (0x0801E : BitVec 20).extractLsb' 1 4 &&& ~~~ reg4 31 = 0 ∧ 0 < 16 - (31 : Reg).val % 16 := by
  decide

theorem witness_FmDelivery :
    let j : LmfmJob := { addr := 0x100, n := 2, rd := 57, lnk := true, k := 1, acc := none }
    let s := { State.reset with fmJobs := [j], fm := [(0x102, 0x1A), (0x103, 0xBC)] }
    s.fmJobs = [j] ∧ (58 : Reg).val = j.rd.val + j.k ∧ buffered s (j.addr + 2 * j.k) = none ∧
      readHalf s.fm (j.addr + 2 * j.k) = some 0x1ABC ∧ writeCheck s 58 0x1ABC = .ok () := by decide

/-- A delivery whose halfword has a write buffered, with what it may find. -/
theorem witness_FmDelivery_race :
    let s := { State.reset with fm := [(0x102, 0x1A), (0x103, 0xBC)], wbuf := [(0x102, 7)] }
    (∃ v, MayRead s 0x102 v) ∧ MayRead s 0x102 0x1ABC ∧ ∀ v, MayRead s 0x102 v →
      writeCheck s 3 v = .ok () := by
  refine ⟨⟨7, .inl rfl⟩, .inr ⟨rfl, fun m h => ?_⟩, fun v _ => rfl⟩
  exact Option.some.inj h

/-- The first halfword of a linked job, which goes to R16 and R58. -/
theorem witness_FmDelivery_linked :
    let j : LmfmJob := { addr := 0x100, n := 2, rd := 16, lnk := true, k := 0, acc := none }
    let s := { State.reset with fmJobs := [j], fm := [(0x100, 0x1A), (0x101, 0xBC)] }
    s.fmJobs = [j] ∧ (16 : Reg).val = j.rd.val + j.k ∧ j.lnk = true ∧ j.k = 0 ∧
      buffered s (j.addr + 2 * j.k) = none ∧ s.cfg.hazardMode = .fault ∧
      readHalf s.fm (j.addr + 2 * j.k) = some 0x1ABC ∧ writeCheck s 16 0x1ABC = .ok () ∧
      moved s .fmcLoad (fun t => accessOne t 58 == .ok ()) = some true := by decide

theorem witness_FmDelivery_drain :
    (let s := { State.reset with wbuf := [(0x100, 0xBEEF)] }
     s.wbuf = [(0x100, 0xBEEF)] ∧ burstActive s = false) ∧
    burstActive { State.reset with
      wbuf := [(0x100, 0xBEEF)]
      fmJobs := [{ addr := 0x100, n := 2, rd := 5, lnk := false, k := 1, acc := none }] } = true := by
  decide

/-! The internal RAM. -/

theorem witness_LoadIssue : LoadReady State.reset .r48 1 (target 0 31) [63] ∧
    LoadReady State.reset .gd 3 (target 0x460 31) [62, 63] ∧ ((63 : Reg).val = (62 : Reg).val + 1) ∧
    LoadReady (withRegs [(48, 0xFFF)]) .r48 0 (target 0xFFF 0) [0] ∧
    (1 : BitVec 2).getLsbD 1 = false ∧ (2 : BitVec 2).getLsbD 1 = true := by
  unfold LoadReady TargetOk SourcesReady Readable CanAdvance
  and_intros <;> decide

theorem witness_StoreIssue : StoreReady State.reset .r48 1 (target 0 31) [63] ∧
    StoreReady State.reset .gd 3 (target 0x460 31) [0, sw 1] ∧
    StoreReady (withRegs [(48, 0xFFF)]) .r48 0 (target 0xFFF 0) [0, sw 1] ∧
    (target 0 31).getLsbD 11 = false := by
  unfold StoreReady TargetOk SourcesReady Readable CanAdvance
  and_intros <;> decide

theorem witness_LoadIssue_stops :
    (let s := withRegs [(48, 0x800)]
     SourcesReady .other s (rlaRegs .r48) ∧ destCheck s 0 = .ok () ∧ destCheck s 1 = .ok () ∧
      (target (rlaVal .other s .r48) 0).getLsbD 11 = true) ∧
    (let s := withRegs [(48, 0x480)]
     SourcesReady .other s (rlaRegs .r48) ∧ destCheck s 0 = .ok () ∧ destCheck s 1 = .ok () ∧
      OutsideGather (target (rlaVal .other s .r48) 0)) ∧
    (0 : Reg) ≠ 61 ∧ (1 : Reg) ≠ 61 ∧ ¬ OutsideGather (target 0x47E 31) := by
  unfold OutsideGather SourcesReady Readable
  and_intros <;> decide

theorem witness_StoreIssue_stops :
    (let s := { withRegs [(48, 0x800)] with
        cssq := [{ kind := .popf, t := 0, cid := 0, rd := 0 }] }
     SourcesReady .other s ([0] ++ rlaRegs .r48) ∧ SourcesReady .other s ([0, sw 1] ++ rlaRegs .r48) ∧
      (target (rlaVal .other s .r48) 0).getLsbD 11 = true ∧ s.cssq ≠ []) ∧
    (let s := withRegs [(48, 0x480)]
     SourcesReady .other s ([0] ++ rlaRegs .r48) ∧ SourcesReady .other s ([0, sw 1] ++ rlaRegs .r48) ∧
      OutsideGather (target (rlaVal .other s .r48) 0)) := by
  unfold OutsideGather SourcesReady Readable
  and_intros <;> decide

theorem witness_StoreIssue_waits :
    let s := { State.reset with lsu := [.load1 0 1 false, .store1 0x40 5] }
    .store1 0x40 5 ∈ s.lsu ∧ isStore (.store1 0x40 5) = true ∧
      SourcesReady .other s ([0] ++ rlaRegs .r48) ∧ TargetOk (target 0 0) 1 ∧ CanAdvance s := by
  unfold TargetOk SourcesReady Readable CanAdvance
  decide

theorem witness_LsuLoads :
    let s := { State.reset with cb := gathered
                                lsu := [.load2 0x400 1 0 true false] }
    localRead s 0x400 = some 0xAA55 ∧ writeCheck s 1 (swapb true 0xAA55) = .ok () ∧
      (0x400 : Half).getLsbD 11 = false ∧ localRead s (0x400 ^^^ 2) = some 0xBB66 := by decide

/-- Entries 0 and 1 of the Scoreboard all 1. -/
theorem witness_LsuLoads_scoreboard :
    let s := { State.reset with
      sb := (List.range 32).map fun k => (k, true)
      lsu := [.load2 0x800 1 0 false false] }
    (0x800 : Half).getLsbD 11 = true ∧ (1 : Reg) ≠ 0 ∧
      (List.range 32).all (fun k => Memory.read s.sb k == some true) = true := by decide

theorem witness_LsuStores : (0x47E : Half).getLsbD 11 = false ∧
    { State.reset with lsu := [.store2 0x47C 1 2 true] }.lsu = [.store2 0x47C 1 2 true] ∧
    (0x47E : Half) = 0x47C ^^^ 2 := by decide

theorem witness_LsuStores_scoreboard :
    { State.reset with lsu := [.store2 0xFFE 1 2 false] }.lsu = [.store2 0xFFE 1 2 false] ∧
      (0xFFE : Half).getLsbD 11 = true := by decide

/-! The agents, the registers and the invariants. -/

/-- A halfword in progress, the reduced header halfword, and the end of a cell. -/
theorem witness_ReceiveCell :
    (let c : RxCell := { cell3 with k := 25 }
     2 * c.k < c.img.length ∧ ¬ (2 * c.k + 2 = c.img.length - 48)) ∧
    (let c : RxCell := { cell3 with img := header, k := 1 }
     2 * c.k < c.img.length ∧ 2 * c.k + 2 = c.img.length - 48 ∧
      reduce 0b0001111 c.img = .ok 0x0A69) ∧
    (let s := { withRegs [(62, 0x0002)] with rxbusy := 1, rxfull := 0 }
     cell3.img.length ≤ 2 * cell3.k ∧ s.rxbusy < rxSizeOf s.regs[62] ∧
      s.rxfull < rxSizeOf s.regs[62] ∧ cell3.hec = some (hec8 Config.standard 4)) := by decide

theorem witness_TransmitCell :
    (let s := { withRegs [(62, 0x0110)] with txbusy := 2 }
     txSizeOf s.regs[62] ≠ 0 ∧ s.txCell = none ∧ s.txbusy ≠ 0 ∧ entryI s.fifo[s.fifoRd] = false ∧
      entryI ({ s with fifo := s.fifo.set 0 0x40 }.fifo[s.fifoRd]) = true ∧
      s.cfg.unassigned = .zeroHeader ∧ (entryPhy s.fifo[s.fifoRd]).toNat ≤ (topPhy s).toNat) ∧
    (let c : TxCell := { entry := 0, img := [1, 2], k := 1 }
     let s := { withRegs [(62, 0x0110)] with txCell := some c, cb := [(0x206, 3), (0x207, 4)] }
     2 * c.k < cellLength s ∧
      readHalf s.cb (0x200 + 64 * s.txIdx + (if cellLength s = 52 then 4 else 0) + 2 * c.k) =
        some 0x0304) ∧
    (∀ e : BitVec 7, e = 0 ∨ e = 0x20 ∨ e = 0x40 →
      let c : TxCell := { entry := e, img := List.replicate 52 0, k := 26 }
      let s := { withRegs [(62, 0x0110)] with txCell := some c, txfull := 1 }
      cellLength s ≤ 2 * c.k ∧ s.txfull ≠ 0 ∧ c.img.length = cellLength s ∧ hecOn s = true ∧
        s.regs[62].getLsbD 8 = true ∧ (withRegs [(62, 0x0010)]).regs[62].getLsbD 8 = false ∧
        (entryI c.entry = true ↔ e = 0x40) ∧ (entryCg c.entry = true ↔ e = 0x20)) := by
  refine ⟨by decide, by decide, ?_⟩
  rintro e (rfl | rfl | rfl) <;> decide

theorem witness_HeaderReduction : (1 ≤ 4 ∧ 4 ≤ 4 ∧ 4 + 3 ≤ 7) ∧ (1 ≤ 1 ∧ 1 ≤ 4 ∧ 1 + 6 ≤ 7) ∧
    (5 : BitVec 7) ≠ 0 ∧ (∀ n p : Nat, n ≤ 4 → (5 : BitVec 7).toNat ≠ (2 ^ n - 1) * 2 ^ p) := by
  refine ⟨by decide, by decide, by decide, fun n p h e => ?_⟩
  have e : 5 = (2 ^ n - 1) * 2 ^ p := e
  have h1 : 2 ^ p ∣ 5 := ⟨2 ^ n - 1, by rw [Nat.mul_comm]; exact e⟩
  have h2 : 2 ^ p ≤ 5 := Nat.le_of_dvd (by decide) h1
  have h3 : p < 3 := by
    by_contra h4
    have : 2 ^ 3 ≤ 2 ^ p := Nat.pow_le_pow_right (by decide) (by omega)
    omega
  interval_cases n <;> interval_cases p <;> omega

theorem witness_TimerCountdown : ∀ c : Half, c = 0 ∨ c = 1 ∨ c = 0xFFFF →
    let s := { withRegs [(54, c)] with mode := 0x0800, pitInit0 := 3 }
    pitEnabled s 0 = true ∧ pitPin s 0 = none ∧ pitInit s 0 ≠ 0 ∧ pitCount s 0 = c := by
  rintro c (rfl | rfl | rfl) <;> decide

/-- A timer whose initialization value is 0, and one clocked by an ICSI pin with and without an edge. -/
theorem witness_TimerCountdown_zero :
    (let s := { State.reset with mode := 0x0400 }
     pitEnabled s 1 = true ∧ pitPin s 1 = none ∧ pitInit s 1 = 0) ∧
    (let s := { State.reset with mode := 0x0900, opts := 0x14, pitEdges0 := 1 }
     pitEnabled s 0 = true ∧ pitPin s 0 = some 3 ∧ pitEdges s 0 ≠ 0 ∧
      pitEdges { s with pitEdges0 := 0 } 0 = 0) := by decide

theorem witness_MailboxFlags : PendingForm State.reset ∧
    AluReady State.reset [1] 40 false (readVal .alu State.reset 1) none ∧
    AluReady State.reset [1] 41 false (readVal .alu State.reset 1) none ∧
    PlainDest 3 ∧ AluReady State.reset [40] 3 false State.reset.regs[40] none := by
  refine ⟨pendingForm_reset, ⟨(aluReady_reset true 0 none).2.1.1, ⟨by decide, by decide, by decide⟩,
    flowReady_reset none, by simp⟩, ⟨(aluReady_reset true 0 none).2.1.1,
    ⟨by decide, by decide, by decide⟩, flowReady_reset none, by simp⟩, by unfold PlainDest; decide,
    ⟨?_, ⟨by decide, by decide, rfl⟩, flowReady_reset none, by simp⟩⟩
  unfold SourcesReady Readable
  decide

/-- Mode bit 15 cannot be set, so the top bit is cleared; mode bits 0 and 14 and event bits 0, 6, 9 and
15 are set. -/
theorem witness_ControlBytes : PendingForm State.reset ∧
    (∀ v : Half, v = 15 ∨ v = 128 → AluReady State.reset [] 42 false v none) ∧
    (∀ v : Half, v = 128 ∨ v = 128 + 6 ∨ v = 9 ∨ v = 128 + 15 →
      AluReady State.reset [] 57 false v none) := by
  refine ⟨pendingForm_reset, ?_, ?_⟩
  · rintro v (rfl | rfl)
    all_goals exact ⟨sourcesReady_reset.2.2, ⟨by decide, by decide, by decide⟩, flowReady_reset none, by simp⟩
  · rintro v (rfl | rfl | rfl | rfl)
    all_goals exact ⟨sourcesReady_reset.2.2, ⟨by decide, by decide, by decide⟩, flowReady_reset none, by simp⟩

theorem quiet_mode (m : Half) (y : HecPhase) :
    Quiet { State.reset with mode := m, hecPhase := y } := by
  refine ⟨?_, ?_, ?_, ?_, ?_, ?_, ?_, ?_, ?_, ?_, ?_, ?_, ?_⟩ <;> rfl

theorem witness_RegisterReads : Quiet State.reset ∧
    (let s := { State.reset with mode := 0x0300, hecPhase := .ready }
     Quiet s ∧ modeBit s 9 = true ∧ s.hecPhase = .ready ∧ modeBit s 8 = true) ∧
    (let s := { State.reset with mode := 0x0200, hecPhase := .seeded }
     Quiet s ∧ modeBit s 9 = true ∧ s.hecPhase = .seeded) ∧
    modeBit State.reset 9 = false ∧ modeBit State.reset 8 = false ∧ (35 : Reg) ≠ 36 ∧
    (63 : Reg).val ∉ [33, 42, 43, 52, 57, 60, 61] :=
  ⟨quiet_mode 0 .idle, ⟨quiet_mode 0x0300 .ready, by decide, by decide, by decide⟩,
    ⟨quiet_mode 0x0200 .seeded, by decide, by decide⟩, by decide, by decide, by decide, by decide⟩

/-- HEC mode and special-features mode are on; the receiver and the transmitter leave reset mode. -/
theorem witness_SpecialWrites :
    let s := { State.reset with mode := 0x0300 }
    PendingForm s ∧ modeVal s 9 = true ∧ modeVal s 8 = true ∧ modeVal State.reset 9 = false ∧
      (∀ c : Reg × Half, c ∈ [((32 : Reg), (0x1234 : Half)), (33, 0xFFFF), (43, 0x3F7F), (54, 3),
        (55, 0xFFFF), (60, 0x4F00), (60, 0x0100), (62, 0x4132)] →
        AluReady s [] c.1 false c.2 none) := by
  refine ⟨⟨?_, ?_, ?_⟩, by decide, by decide, by decide, ?_⟩
  · intro p h
    cases h
  · intro p h
    cases h
  · intro p h
    cases h
  · intro c h
    refine ⟨⟨by decide, by simp⟩, ?_, ⟨fun _ => by decide, fun q h => by cases h⟩, by simp⟩
    simp only [List.mem_cons, List.not_mem_nil, or_false] at h
    rcases h with rfl | rfl | rfl | rfl | rfl | rfl | rfl | rfl <;>
      exact ⟨by decide, by decide, by decide⟩

/-- A write of the register, then a NOP, then an LD of R3 or of the hardware register R37. -/
theorem witness_WriteDelays : PendingForm State.reset ∧ State.reset.cfg.hazardMode = .fault ∧
    (∀ r : Reg, r ∈ [(58 : Reg), 59, 60, 62, 63] →
      (encode (.limd r false 0x0300)).getLsbD 31 = true ∧ r ∈ dests (.limd r false 0x0300) ∧
      ∃ t, Completes (.limd r false 0x0300) State.reset t) ∧
    (58 : Reg) ∉ dests .nop ∧ ¬ HardwareLoad .nop ∧ (58 : Reg) ∉ dests (.ld 37 .ga 0 0) ∧
    HardwareLoad (.ld 37 .ga 0 0) := by
  refine ⟨pendingForm_reset, by decide, ?_, by decide, ?_, by decide,
    ⟨37, .ga, 0, 0, by decide, .inl rfl⟩⟩
  · intro r h
    simp only [List.mem_cons, List.not_mem_nil, or_false] at h
    rcases h with rfl | rfl | rfl | rfl | rfl <;>
      exact ⟨by decide, by decide, _, completes_of_pc (s := State.reset) rfl (by decide)⟩
  · rintro ⟨rd, x, swap, idx, _, h | h⟩ <;> cases h

/-- After the write the instructions of the statement complete. -/
theorem witness_WriteDelays_next :
    let s := { State.reset with
      recs := [{ key := .reg 62, old := 0, e := 1, x := 0, kind := .plain }], pc := 2 }
    (∃ t, Completes .nop s t) ∧ ∃ t, Completes (.ld 37 .ga 0 0) s t := by
  exact ⟨⟨_, completes_of_pc rfl (by decide)⟩, ⟨_, completes_of_pc rfl (by decide)⟩⟩

theorem witness_BitBucket : PendingForm State.reset ∧ AluReady State.reset [] 36 false 5 none ∧
    (∀ rd : Reg, rd = 0 ∨ rd = 36 ∨ rd = 63 → rd ≠ 61) ∧
    (1 : BitVec 2).getLsbD 1 = false ∧ SignTest .bgez (modWidth 15) ∧ SignTest .bz (modWidth 0) ∧
    CompareTest State.reset 6 (modWidth 15) ∧ CompareTest State.reset 0 16 ∧
    ((16 : BitVec 5).toNat ≤ 16 ∧ (16 : Reg).val + (16 : BitVec 5).toNat ≤ 64 ∧
      (zMask 16).isSome = true) ∧
    State.reset.cfg.strictReserved = true ∧ (rlaReg .r48).isSome = true ∧
    (let s := { State.reset with stuck := true }
     s.stuck = true ∧ s.agenda = [] ∧ s.turn = .swan) := by
  refine ⟨pendingForm_reset, (aluReady_reset true 5 none).2.2.2, by decide, by decide, ?_, ?_, ?_, ?_,
    by decide, by decide, by decide, by decide⟩
  all_goals
    first
      | (unfold SignTest; decide)
      | (unfold CompareTest; decide)

theorem witness_PlainRegisters : ((34 : Reg) = 34 ∨ (34 : Reg) = 35) ∧
    accessCheck State.reset 34 = .ok () := by decide

theorem witness_AluBranches : (1 ≤ 1 ∧ 1 ≤ 16) ∧ State.reset.cfg = Config.standard ∧
    State.reset.cfg.aeFallthrough ≠ { Config.standard with aeFallthrough := .skip }.aeFallthrough ∧
    (0 : BitVec 4) ≠ 15 ∧ (cmpCond State.reset 6).isSome = true := by decide

/-- An image that boots, and one for each limit that it breaks. -/
theorem witness_BootState :
    (∃ t, boot Config.standard 0x0100 [0xFE40, 0x0002, 0xFE40, 0x0000] = .next t) ∧
    boot { Config.standard with bootSource := 0 } 0x0100 [0xFE40, 2] = .fault .bootImage ∧
    boot Config.standard 0x0100 [0xFE40] = .fault .bootImage ∧
    boot Config.standard 0x0100 [] = .fault .bootImage ∧
    (∀ code : List Half, code.length = 65536 → boot Config.standard 0x0100 code = .fault .bootImage) ∧
    (boot { Config.standard with bootChecksum := some 7 } 0x0100 [0xFE40, 2] ≠ .fault .bootImage) ∧
    boot { Config.standard with bootSource := 2 } 0x0100 (0xFE40 :: List.replicate 1025 0) =
      .fault .bootImage ∧
    boot Config.standard 0x0100 [0xFE41, 0] = .fault .bootImage ∧
    boot Config.standard 0x0100 [0xFE40, 4] = .fault .bootImage ∧
    boot Config.standard 0x7800 [0xFE40, 2] = .fault .bootImage ∧
    boot Config.standard 0x0100 [0xFE40, 0x12] = .fault .bootImage ∧
    boot { Config.standard with fmSize := .k128 } 0x8000 [0xFE40, 2] = .fault .bootImage := by
  have h : ∀ (c : Config) (a : BitVec 16) (code : List Half), (bootChecks c a code).any id = true →
      boot c a code = .fault .bootImage := fun c a code e => if_pos e
  refine ⟨⟨_, if_neg (by decide)⟩, h _ _ _ ?_, h _ _ _ ?_, h _ _ _ ?_,
    fun code e => h _ _ code (by simp [bootChecks, e]), ?_, h _ _ _ ?_, h _ _ _ ?_, h _ _ _ ?_, h _ _ _ ?_, h _ _ _ ?_,
    h _ _ _ ?_⟩
  all_goals first
    | decide
    | (unfold boot; rw [if_neg (by decide)]; simp)

/-- The invariants hold of a state with something in every queue. -/
def busy : State :=
  { withRegs [(62, 0x0132)] with
    wbuf := [(0, 1), (2, 2), (4, 3), (6, 4)]
    cssq := [{ kind := .popc, t := 0, cid := 0, rd := 31 }, { kind := .popf, t := 0, cid := 0, rd := 63 }]
    q1 := [cmdAt true 2, cmdAt true 2, cmdAt true 2]
    q2 := [cmdAt true 2, cmdAt true 2, cmdAt true 2]
    lsu := [.store1 0 1, .load1 0 2 false]
    plus := [{ r := 51, new := 0x0FFF, age := 1 }]
    rxbusy := 2, rxfull := 2, txbusy := 4, txfull := 4
    fm := [(0, 1), (1, 2)] }

theorem witness_StepKeeps : MemoryForm busy ∧ QueueBounds busy ∧ PendingForm busy ∧
    ReservedZero busy ∧ CountersInRange busy ∧
    (∃ t, step { busy with turn := .helpers, agenda := [.fmcDrain] } = .next t) := by
  refine ⟨?_, ?_, ⟨?_, ?_, ?_⟩, ?_, ?_, ⟨_, rfl⟩⟩
  · unfold MemoryForm; decide
  · unfold QueueBounds; decide
  · decide
  · intro c h
    cases h
  · decide
  · unfold ReservedZero; decide
  · unfold CountersInRange; decide

/-- A store that is posted, and the write that resets the Cell Scheduling System. -/
theorem witness_InstructionsPost : PendingForm State.reset ∧
    (∃ t, exec (.shfm 1 2) State.reset = .next t) ∧
    (∃ t, exec (.limd 60 false 0x4000) { State.reset with sb := [(3, true)] } = .next t ∧
      t.sb ≠ [(3, true)]) :=
  ⟨pendingForm_reset, ⟨_, rfl⟩, _, rfl, by decide⟩

end Sys2Proof.Tests
end

section
/-!
PROOFS. Every step keeps the hardware's buffers within their sizes (10 R73 to R76; 46 R390): what each
instruction and each agent does to the buffers, said once, and the step lemma assembled from it.
-/
namespace Sys2Proof.Machine

/-! ### The bounds look at five fields -/

/-- `t` holds the buffers of `s` (10 R73 to R76; 46 R390). -/
def SameQueues (s t : State) : Prop :=
  t.wbuf = s.wbuf ∧ t.cssq = s.cssq ∧ t.q1 = s.q1 ∧ t.q2 = s.q2 ∧ t.lsu = s.lsu

theorem SameQueues.queueBounds {s t : State} (e : SameQueues s t) (h : QueueBounds s) :
    QueueBounds t := by
  obtain ⟨hw, hc, h1, h2, hl⟩ := e
  unfold QueueBounds
  rwa [hw, hc, h1, h2, hl]

/-- The bounds survive the change of one buffer that keeps its own bound. -/
theorem QueueBounds.with_wbuf {s t : State} (h : QueueBounds s)
    (e : SameQueues { s with wbuf := t.wbuf } t) (b : t.wbuf.length ≤ 4) : QueueBounds t :=
  e.queueBounds ⟨b, h.2⟩

theorem QueueBounds.with_q1 {s t : State} (h : QueueBounds s)
    (e : SameQueues { s with q1 := t.q1 } t) (b : t.q1.length ≤ 3) : QueueBounds t :=
  e.queueBounds ⟨h.1, h.2.1, b, h.2.2.2⟩

theorem QueueBounds.with_q2 {s t : State} (h : QueueBounds s)
    (e : SameQueues { s with q2 := t.q2 } t) (b : t.q2.length ≤ 3) : QueueBounds t :=
  e.queueBounds ⟨h.1, h.2.1, h.2.2.1, b, h.2.2.2.2⟩

theorem QueueBounds.with_lsu {s t : State} (h : QueueBounds s)
    (e : SameQueues { s with lsu := t.lsu } t) (b : (t.lsu.filter isStore).length ≤ 1) :
    QueueBounds t :=
  e.queueBounds ⟨h.1, h.2.1, h.2.2.1, h.2.2.2.1, b⟩

/-! ### What the instructions' checks say of the buffers -/

/-- A check made only under a condition does not hide the checks after it. -/
theorem of_when_ok {β : Type} {c : Prop} [Decidable c] {x : Check Unit} {k : Check β} {b : β}
    (h : (if c then (do x; k) else k) = .ok b) : k = .ok b := by
  split at h
  · exact (seq_ok.1 h).2
  · exact h

theorem umCheck_wbuf {s : State} {r : Reg} (h : umCheck s r = .ok ()) : s.wbuf.length < 4 := by
  simpa using stallIf_ok.1 (seq_ok.1 h).2

/-- An ALU instruction that writes Update Memory finds room in the write buffer (40 R187). -/
theorem aluCheck_wbuf {s : State} {o : AluOp} {r : Reg} (h : aluCheck s o = .ok ())
    (hum : o.um = true) (hrd : o.rd = some r) : s.wbuf.length < 4 := by
  obtain ⟨-, h⟩ := seq_ok.1 h
  obtain ⟨-, h⟩ := seq_ok.1 h
  obtain ⟨-, h⟩ := seq_ok.1 h
  obtain ⟨-, h⟩ := seq_ok.1 (of_when_ok h)
  obtain ⟨-, h⟩ := seq_ok.1 h
  obtain ⟨-, h⟩ := seq_ok.1 h
  obtain ⟨-, h⟩ := seq_ok.1 h
  rw [hum, hrd] at h
  exact umCheck_wbuf h

/-- A Cell Scheduling instruction finds room in the instruction buffer (43 R294). -/
theorem cssCheck_cssq {s : State} {o : CssIssue} (h : cssCheck s o = .ok ()) :
    s.cssq.length < 2 := by
  obtain ⟨-, h⟩ := seq_ok.1 h
  obtain ⟨-, h⟩ := seq_ok.1 h
  obtain ⟨-, h⟩ := seq_ok.1 h
  obtain ⟨-, h⟩ := seq_ok.1 (of_when_ok h)
  obtain ⟨-, h⟩ := seq_ok.1 h
  obtain ⟨-, h⟩ := seq_ok.1 h
  simpa using stallIf_ok.1 h

/-- A DMA instruction finds a place at its port (44 R321). -/
theorem dmaCheck_queue {s : State} {o : DmaOp} (h : dmaCheck s o = .ok ()) :
    (queueOf s o.port2).length < 3 := by
  obtain ⟨-, h⟩ := seq_ok.1 h
  obtain ⟨-, h⟩ := seq_ok.1 h
  obtain ⟨-, h⟩ := seq_ok.1 h
  obtain ⟨-, h⟩ := seq_ok.1 h
  obtain ⟨-, h⟩ := seq_ok.1 h
  obtain ⟨-, h⟩ := seq_ok.1 h
  have h : (do advanceCheck s s.fq; stallIf (decide (3 ≤ (queueOf s o.port2).length)) :
      Check Unit) = .ok () := by
    split at h
    · exact (seq_ok.1 h).2
    · exact (seq_ok.1 h).2
  simpa using stallIf_ok.1 (seq_ok.1 h).2

/-- A halfword store to Fast Memory finds room in the write buffer (45 R366, R367). -/
theorem fmStoreCheck_wbuf {s : State} {hold : CrcSel} {regs : List Reg} {src : Reg}
    {a : BitVec 20} (h : fmStoreCheck s hold regs src a = .ok ()) : s.wbuf.length < 4 := by
  obtain ⟨-, h⟩ := seq_ok.1 h
  obtain ⟨-, h⟩ := seq_ok.1 h
  obtain ⟨-, h⟩ := seq_ok.1 h
  obtain ⟨-, h⟩ := seq_ok.1 h
  obtain ⟨-, h⟩ := seq_ok.1 h
  obtain ⟨-, h⟩ := seq_ok.1 h
  simpa using stallIf_ok.1 h

/-- The load/store unit holds no store when `holdsStore` says so (46 R390). -/
theorem filter_isStore_of_holdsStore {s : State} (h : holdsStore s = false) :
    s.lsu.filter isStore = [] := by
  rw [List.filter_eq_nil_iff]
  intro o ho
  have := List.any_eq_false.1 h o ho
  cases o <;> simp_all [isStore]

/-! ### The instructions -/

/-- An ALU instruction posts at most its Update Memory write-back, and leaves the other buffers. -/
theorem aluNext_queues (s : State) (o : AluOp) :
    SameQueues { s with wbuf := (aluNext s o).wbuf } (aluNext s o) ∧
      ((aluNext s o).wbuf = s.wbuf ∨
        ∃ r e, o.um = true ∧ o.rd = some r ∧ (aluNext s o).wbuf = s.wbuf ++ [e]) := by
  rw [aluNext_eq]
  unfold aluWrite
  cases hrd : o.rd with
  | none => simp [SameQueues]
  | some r => cases hum : o.um <;> simp [SameQueues]

theorem branchNext_queues (s : State) (link : Bool) (x : Target) (e : Fin 16) (sense c : Bool)
    (cso : Cso) : SameQueues s (branchNext s link x e sense c cso) := by
  have d := (branchNext_done s link x e sense c cso).rest
  refine ⟨?_, ?_, ?_, ?_, ?_⟩ <;> rw [d] <;> rfl

theorem cssNext_queues (s : State) (o : CssIssue) :
    SameQueues { s with cssq := s.cssq ++ [cssOpOf s o] } (cssNext s o) := by
  simp [SameQueues, cssNext]

theorem dmaNext_queues (s : State) (o : DmaOp) :
    SameQueues (enqueue s o.port2 (dmaCmdOf s o)) (dmaNext s o) := by
  simp [SameQueues, dmaNext]

theorem fmStoreNext_queues (s : State) (regs : List Reg) (src : Reg) (a : BitVec 20) :
    SameQueues { s with wbuf := s.wbuf ++ [(a.toNat, readVal .other s src)] }
      (fmStoreNext s regs src a) := by
  simp [SameQueues, fmStoreNext]

theorem lmfmNext_queues (s : State) (o : LmfmOp) : SameQueues s (lmfmNext s o) := by
  have d := (lmfmNext_issued s o).rest
  refine ⟨?_, ?_, ?_, ?_, ?_⟩ <;> rw [d] <;> rfl

theorem lsuNext_queues (s : State) (d : Done) (srcs : List Reg) (o : LsuOp) :
    SameQueues { s with lsu := s.lsu ++ [o] } (lsuNext s d srcs o) := by
  simp [SameQueues, lsuNext]

/-- A port with a place takes one more command (44 R320, R321). -/
theorem enqueue_queueBounds {s : State} {port2 : Bool} {c : DmaCmd} (h : QueueBounds s)
    (hq : (queueOf s port2).length < 3) : QueueBounds (enqueue s port2 c) := by
  cases port2 with
  | true =>
    refine h.with_q2 (by simp [SameQueues]) ?_
    simp [queueOf] at hq ⊢; omega
  | false =>
    refine h.with_q1 (by simp [SameQueues]) ?_
    cases hd : dmaDiscarded c <;> simp [hd, queueOf] at hq ⊢ <;> omega

/-- Every instruction keeps the buffers within their sizes: it waits for a place before it takes one. -/
theorem exec_keeps_queueBounds {i : Instr} {s t : State} (h : QueueBounds s)
    (e : exec i s = .next t) : QueueBounds t := by
  cases exec_form e with
  | waits e => exact e ▸ h
  | sticks e => exact e ▸ h
  | alu o hc e =>
    subst e
    obtain ⟨hs, hw | ⟨r, p, hum, hrd, hw⟩⟩ := aluNext_queues s o
    · exact h.with_wbuf hs (hw ▸ h.1)
    · have := aluCheck_wbuf hc hum hrd
      exact h.with_wbuf hs (by rw [hw]; simp; omega)
  | branch link x ess sense c cso hc e => exact e ▸ (branchNext_queues ..).queueBounds h
  | css o hc e =>
    have := cssCheck_cssq hc
    exact e ▸ (cssNext_queues s o).queueBounds ⟨h.1, by simp; omega, h.2.2⟩
  | dma o hc e =>
    exact e ▸ (dmaNext_queues s o).queueBounds (enqueue_queueBounds h (dmaCheck_queue hc))
  | fmStore hold regs src a hc e =>
    have := fmStoreCheck_wbuf hc
    exact e ▸ (fmStoreNext_queues s regs src a).queueBounds ⟨by simp; omega, h.2⟩
  | lmfm o hc e => exact e ▸ (lmfmNext_queues s o).queueBounds h
  | load d srcs o ho e =>
    have hl : isStore o = false := by
      rcases ho with ⟨x, rd, w, rfl⟩ | ⟨x, ra, rb, w, rfl⟩ <;> rfl
    refine e ▸ (lsuNext_queues s d srcs o).queueBounds ⟨h.1, h.2.1, h.2.2.1, h.2.2.2.1, ?_⟩
    simpa [List.filter_append, hl] using h.2.2.2.2
  | store d srcs o hc ho e =>
    refine e ▸ (lsuNext_queues s d srcs o).queueBounds ⟨h.1, h.2.1, h.2.2.1, h.2.2.2.1, ?_⟩
    rw [List.filter_append, filter_isStore_of_holdsStore hc]
    exact List.length_filter_le _ [o]

/-! ### The agents -/

/-- A delivery of the Fast Memory controller takes nothing from a buffer of posted work (45 R360). -/
theorem fmcLoadStep_queues {s t : State} (h : fmcLoadStep s = .ok t) : SameQueues s t := by
  unfold fmcLoadStep at h
  split at h
  · cases h
  · rename_i j rest _
    split at h
    · cases h
    · rename_i v _
      obtain ⟨-, h⟩ := seq_ok.1 h
      cases h
      cases j.lnk && j.k == 0 <;> simp [SameQueues]

/-- Retiring a posted write shortens the write buffer (45 R360). -/
theorem fmcDrainStep_queueBounds {s t : State} (h : QueueBounds s)
    (e : fmcDrainStep s = .ok t) : QueueBounds t := by
  unfold fmcDrainStep at e
  split at e
  · cases e
  · rename_i a v rest hw
    have hb : rest.length + 1 ≤ 4 := by simpa [hw] using h.1
    split at e
    · cases e
    · cases e
      exact h.with_wbuf ⟨rfl, rfl, rfl, rfl, rfl⟩ (Nat.le_of_succ_le hb)

/-- The load/store unit's access changes no buffer itself (46 R395). -/
theorem landAt_queues {s u : State} {t : Half} {r : Reg} {swap : Bool}
    (h : landAt s t r swap = .ok u) : SameQueues s u := by
  unfold landAt at h
  split at h
  · cases h
  · obtain ⟨-, h⟩ := seq_ok.1 h
    cases h
    simp [SameQueues]

theorem localWrite_queues (s : State) (t v : Half) : SameQueues s (localWrite s t v) := by
  unfold localWrite
  split <;> simp [SameQueues]

theorem SameQueues.trans {s t u : State} (h : SameQueues s t) (k : SameQueues t u) :
    SameQueues s u := by
  obtain ⟨h1, h2, h3, h4, h5⟩ := h
  obtain ⟨k1, k2, k3, k4, k5⟩ := k
  exact ⟨k1.trans h1, k2.trans h2, k3.trans h3, k4.trans h4, k5.trans h5⟩

/-- What is left of an operation after an access is no more stores than the operation (46 R390). -/
theorem lsuAccess_queues {s u : State} {o : LsuOp} {left : List LsuOp}
    (h : lsuAccess s o = .ok (u, left)) :
    SameQueues s u ∧ (left.filter isStore).length ≤ ([o].filter isStore).length := by
  unfold lsuAccess at h
  split at h
  case h_1 t rd swap =>
    obtain ⟨v, hv, h⟩ := bind_ok.1 h
    cases h
    exact ⟨landAt_queues hv, Nat.zero_le _⟩
  case h_2 t ra rb swap =>
    obtain ⟨v, hv, h⟩ := bind_ok.1 h
    split at h
    · obtain ⟨w, hw, h⟩ := bind_ok.1 h
      cases h
      exact ⟨(landAt_queues hv).trans (landAt_queues hw), Nat.zero_le _⟩
    · cases h
      exact ⟨landAt_queues hv, Nat.le_refl _⟩
  case h_3 t _ rb swap =>
    obtain ⟨v, hv, h⟩ := bind_ok.1 h
    cases h
    exact ⟨landAt_queues hv, Nat.zero_le _⟩
  case h_4 t v =>
    cases h
    exact ⟨localWrite_queues .., Nat.zero_le _⟩
  case h_5 t x y =>
    split at h
    · cases h
      exact ⟨(localWrite_queues ..).trans (localWrite_queues ..), Nat.zero_le _⟩
    · cases h
      exact ⟨localWrite_queues .., Nat.le_refl _⟩
  case h_6 t _ y =>
    cases h
    exact ⟨localWrite_queues .., Nat.zero_le _⟩

theorem lsuStep_queueBounds {s t : State} (h : QueueBounds s) (e : lsuStep s = .ok t) :
    QueueBounds t := by
  unfold lsuStep at e
  split at e
  · cases e
  · rename_i o rest hl
    obtain ⟨⟨u, left⟩, ha, e⟩ := bind_ok.1 e
    cases e
    obtain ⟨⟨hw, hc, h1, h2, -⟩, hn⟩ := lsuAccess_queues ha
    refine h.with_lsu ⟨hw, hc, h1, h2, rfl⟩ ?_
    have hb : ((o :: rest).filter isStore).length ≤ 1 := hl ▸ h.2.2.2.2
    rw [← List.singleton_append, List.filter_append, List.length_append] at hb
    simp only [List.filter_append, List.length_append]
    omega

/-- A Cell Scheduling operation posts at most one Connection ID, into a write buffer with room, and
leaves the other buffers (43 R295 to R298). -/
theorem cssPerform_queueBounds {s t : State} {o : CssOp} (h : QueueBounds s)
    (e : cssPerform s o = .ok t) : QueueBounds t := by
  unfold cssPerform at e
  split at e
  case h_1 =>
    obtain ⟨-, e⟩ := seq_ok.1 e
    cases e
    exact SameQueues.queueBounds ⟨rfl, rfl, rfl, rfl, rfl⟩ h
  case h_2 =>
    cases e
    exact SameQueues.queueBounds ⟨rfl, rfl, rfl, rfl, rfl⟩ h
  case h_3 =>
    obtain ⟨r, -, e⟩ := bind_ok.1 e
    split at e
    · cases e
      exact SameQueues.queueBounds ⟨rfl, rfl, rfl, rfl, rfl⟩ h
    · obtain ⟨-, e⟩ := seq_ok.1 e
      obtain ⟨hw, e⟩ := seq_ok.1 e
      have hw : s.wbuf.length < 4 := by simpa using stallIf_ok.1 hw
      cases e
      exact h.with_wbuf (by simp [SameQueues, reserveSlot]) (by simp [reserveSlot]; omega)
  case h_4 =>
    obtain ⟨r, -, e⟩ := bind_ok.1 e
    split at e <;> cases e <;> exact SameQueues.queueBounds ⟨rfl, rfl, rfl, rfl, rfl⟩ h

theorem cssStep_queueBounds {s t : State} (h : QueueBounds s) (e : cssStep s = .ok t) :
    QueueBounds t := by
  unfold cssStep at e
  split at e
  · cases e
  · rename_i o rest hq
    have hb : rest.length + 1 ≤ 2 := by simpa [hq] using h.2.1
    have hs : QueueBounds { s with cssq := rest, draws := s.draws + 1 } :=
      ⟨h.1, Nat.le_of_succ_le hb, h.2.2⟩
    exact cssPerform_queueBounds hs e

theorem podApply_queues {s t : State} {c : DmaCmd} (h : podApply s c = .ok t) :
    SameQueues s t := by
  unfold podApply at h
  split at h
  · split at h <;> split at h <;> cases h <;> simp [SameQueues]
  · cases h
    simp [SameQueues]

theorem crcDone_queues (s : State) (c : DmaCmd) : SameQueues s (crcDone s c) := by
  unfold crcDone setCrcPair
  split <;> simp [SameQueues]

theorem dma1ReadMove_queues (s : State) (c : DmaCmd) : SameQueues s (dma1ReadMove s c).1 := by
  unfold dma1ReadMove
  dsimp only
  split
  · simp [SameQueues, cbWrite]
  · split <;> simp [SameQueues, cbWrite]

theorem dma1Move_queues {s t : State} {c d : DmaCmd} (h : dma1Move s c = .ok (t, d)) :
    SameQueues s t := by
  unfold dma1Move at h
  split at h
  · unfold dma1WriteMove at h
    split at h
    · cases h
    · cases h
      split <;> simp [SameQueues]
  · split at h
    · cases h
      simp [SameQueues, cbWrite]
    · obtain rfl : (dma1ReadMove s c).1 = t := congrArg Prod.fst (Except.ok.inj h)
      exact dma1ReadMove_queues s c

theorem dma2Move_queues {s t : State} {c d : DmaCmd} (h : dma2Move s c = .ok (t, d)) :
    SameQueues s t := by
  unfold dma2Move setPort2 at h
  split at h
  · split at h
    · cases h
    · cases h
      split <;> simp [SameQueues]
  · cases h
    simp [SameQueues, cbWrite]

/-- A step of the Port1 controller keeps the length of its list, or shortens it (44 R322). -/
theorem dma1Step_queueBounds {s t : State} (h : QueueBounds s) (e : dma1Step s = .ok t) :
    QueueBounds t := by
  unfold dma1Step at e
  split at e
  · cases e
  · rename_i c rest hq
    have hb : rest.length + 1 ≤ 3 := by simpa [hq] using h.2.2.1
    split at e
    · cases e
      exact h.with_q1 ⟨rfl, rfl, rfl, rfl, rfl⟩ hb
    · split at e
      · obtain ⟨⟨u, d⟩, hm, e⟩ := bind_ok.1 e
        cases e
        obtain ⟨hw, hc, -, h2, hl⟩ := dma1Move_queues hm
        exact h.with_q1 ⟨hw, hc, rfl, h2, hl⟩ hb
      · obtain ⟨u, hp, e⟩ := bind_ok.1 e
        cases e
        obtain ⟨hw, hc, -, h2, hl⟩ := (crcDone_queues s c).trans (podApply_queues hp)
        exact h.with_q1 ⟨hw, hc, rfl, h2, hl⟩ (Nat.le_of_succ_le hb)

/-- A step of the Port2 controller keeps the length of its list, or shortens it (44 R322). -/
theorem dma2Step_queueBounds {s t : State} (h : QueueBounds s) (e : dma2Step s = .ok t) :
    QueueBounds t := by
  unfold dma2Step at e
  split at e
  · cases e
  · rename_i c rest hq
    have hb : rest.length + 1 ≤ 3 := by simpa [hq] using h.2.2.2.1
    split at e
    · cases e
      exact h.with_q2 ⟨rfl, rfl, rfl, rfl, rfl⟩ hb
    · split at e
      · obtain ⟨⟨u, d⟩, hm, e⟩ := bind_ok.1 e
        cases e
        obtain ⟨hw, hc, h1, -, hl⟩ := dma2Move_queues hm
        exact h.with_q2 ⟨hw, hc, h1, rfl, hl⟩ hb
      · obtain ⟨u, hp, e⟩ := bind_ok.1 e
        cases e
        obtain ⟨hw, hc, h1, -, hl⟩ := podApply_queues hp
        exact h.with_q2 ⟨hw, hc, h1, rfl, hl⟩ (Nat.le_of_succ_le hb)

/-- An abort shortens a command, not the list (51 R467). -/
theorem abortStep_queueBounds {s t : State} (h : QueueBounds s) (e : abortStep s = .ok t) :
    QueueBounds t := by
  unfold abortStep at e
  split at e
  · cases e
  · rename_i c rest hq
    have hb : rest.length + 1 ≤ 3 := by simpa [hq] using h.2.2.1
    split at e
    · cases e
      exact h.with_q1 ⟨rfl, rfl, rfl, rfl, rfl⟩ hb
    · cases e

theorem p1PokeStep_queues {s t : State} {a : Nat} {b : Byte} (h : p1PokeStep s a b = .ok t) :
    SameQueues s t := by
  unfold p1PokeStep at h
  split at h <;> cases h
  exact ⟨rfl, rfl, rfl, rfl, rfl⟩

theorem p2PokeStep_queues {s t : State} {burst : Bool} {a : Nat} {b : Byte}
    (h : p2PokeStep s burst a b = .ok t) : SameQueues s t := by
  unfold p2PokeStep at h
  split at h <;> split at h <;> cases h <;> exact ⟨rfl, rfl, rfl, rfl, rfl⟩

theorem rxAccept_queues {s t : State} {phy : BitVec 5} {octets : List Byte}
    (h : rxAccept s phy octets = .ok t) : SameQueues s t := by
  unfold rxAccept at h
  split at h <;> cases h
  exact ⟨rfl, rfl, rfl, rfl, rfl⟩

theorem rxStep_queues {s t : State} (h : rxStep s = .ok t) : SameQueues s t := by
  unfold rxStep at h
  split at h
  · cases h
  · split at h
    · obtain ⟨v, -, h⟩ := bind_ok.1 h
      cases h
      exact ⟨rfl, rfl, rfl, rfl, rfl⟩
    · obtain ⟨-, h⟩ := seq_ok.1 h
      obtain ⟨-, h⟩ := seq_ok.1 h
      cases h
      exact ⟨rfl, rfl, rfl, rfl, rfl⟩

theorem txStart_queues {s t : State} {phy : BitVec 5} (h : txStart s phy = .ok t) :
    SameQueues s t := by
  unfold txStart at h
  dsimp only at h
  split at h
  · obtain ⟨-, h⟩ := seq_ok.1 h
    cases h
    exact ⟨rfl, rfl, rfl, rfl, rfl⟩
  · cases h

theorem txStep_queues {s t : State} (h : txStep s = .ok t) : SameQueues s t := by
  unfold txStep at h
  split at h
  · cases h
  · split at h
    · unfold txFetch at h
      split at h <;> cases h
      exact ⟨rfl, rfl, rfl, rfl, rfl⟩
    · obtain ⟨-, h⟩ := seq_ok.1 h
      cases h
      exact ⟨rfl, rfl, rfl, rfl, rfl⟩

/-- A tick of a timer changes its count, its event bit and its edges (60 R531). -/
theorem pitStep_queues {s t : State} {k : Fin 2} (h : pitStep s k = .ok t) : SameQueues s t := by
  unfold pitStep at h
  split at h
  · split at h
    · cases h
    · cases h
      unfold SameQueues setEvent setPitCount pitUse
      dsimp only
      split <;> split <;> split <;> simp
  · cases h

/-- Every move of an agent keeps the buffers within their sizes. -/
theorem perform_keeps_queueBounds {m : Move} {s t : State} (h : QueueBounds s)
    (e : perform s m = .ok t) : QueueBounds t := by
  cases m with
  | swan => cases e
  | fmcLoad => exact (fmcLoadStep_queues e).queueBounds h
  | fmcDrain => exact fmcDrainStep_queueBounds h e
  | lsu => exact lsuStep_queueBounds h e
  | css => exact cssStep_queueBounds h e
  | dma1 => exact dma1Step_queueBounds h e
  | dma2 => exact dma2Step_queueBounds h e
  | p1Abort => exact abortStep_queueBounds h e
  | p1Poke a b => exact (p1PokeStep_queues e).queueBounds h
  | p2Poke burst a b => exact (p2PokeStep_queues e).queueBounds h
  | rxOffer phy octets => exact (rxAccept_queues e).queueBounds h
  | rx => exact (rxStep_queues e).queueBounds h
  | txReady phy => exact (txStart_queues e).queueBounds h
  | tx => exact (txStep_queues e).queueBounds h
  | pit k => exact (pitStep_queues e).queueBounds h
  | icsi pins => cases e; exact h
  | icsLatch => cases e; exact h
  | comminWrite v => cases e; exact h
  | commoutRead => cases e; exact h

/-- Settles O58: an instruction takes a place of a buffer only once its checks have found one, and an
agent takes operations out, but for the Connection ID that a PUSHC posts into a write buffer with room. -/
theorem stepKeepsQueueBounds : Obligations.StepKeepsQueueBounds := by
  unfold Obligations.StepKeepsQueueBounds
  intro s t h e
  exact step_keeps (P := QueueBounds) (fun _ h => h) (fun _ _ _ => exec_keeps_queueBounds)
    (fun _ _ _ => perform_keeps_queueBounds) (fun _ _ _ _ _ h => h) h e

end Sys2Proof.Machine
end

section
/-!
PROOFS. The UTOPIA counters under `hazard_mode = stale`: the counter operation of a Branch instruction is
checked against the size that R62 had before its last write (70 R563(a)), so that the step after a
transmitter has been put back into reset mode can count past its size.
-/
namespace Sys2Proof.Machine

/-- Reset under `hazard_mode = stale`, with a program that starts an idle transmitter of two cells, puts
it back into reset mode, and counts a cell for it in the very next instruction. -/
def resizeStart : State :=
  { State.initial { Config.standard with hazardMode := .stale } with
    fm := writeWord (writeWord (writeWord [] 0 (encode (.limd 62 false 0x4010)))
      4 (encode (.limd 62 false 0))) 8 (encode (.bi 15 false false .itxbusy 0))
    agenda := [.swan, .swan, .swan] }

/-- The state before the Branch instruction: R62 is 0, and its record still has the size of two cells. -/
def resizePending : State :=
  { resizeStart with
    recs := [{ key := .reg 62, old := 0x4010, e := 0, x := 0, kind := .plain }]
    pc := 2
    icPages := [(0, 0)]
    icWords := [(0, false), (1, false)]
    agenda := [.swan]
    turn := .helpers
    draws := 2 }

/-- The program reaches that state from reset, so the counterexample is no unreachable state. -/
theorem run_resizeStart : Sys2Proof.core.run 2 resizeStart = .next resizePending := rfl

theorem resizePending_form :
    PendingForm resizePending ∧ ReservedZero resizePending ∧ CountersInRange resizePending := by
  refine ⟨⟨by decide, ?_, by decide⟩, by unfold ReservedZero; decide, by unfold CountersInRange; decide⟩
  intro c hc r hk _ h51
  have hc : c = _ := List.mem_singleton.1 hc
  rw [hc] at hk
  obtain rfl : 62 = r := RecKey.reg.inj hk
  exact absurd h51 (by decide)

/-- The Branch instruction counts one cell for a transmitter without a holder. -/
theorem step_resizePending :
    ∃ t, step resizePending = .next t ∧ t.txbusy = 1 ∧ txSizeOf t.regs[62] = 0 :=
  ⟨_, rfl, rfl, by decide⟩

/-- Refutes O59: under `hazard_mode = stale` a Branch instruction that increments TXBUSY right after R62
has put an idle transmitter into reset mode is checked against the old size, and leaves TXBUSY at 1 where
the size is 0. -/
theorem not_stepKeepsReserved : ¬ Obligations.StepKeepsReserved := by
  unfold Obligations.StepKeepsReserved
  intro h
  obtain ⟨hp, hz, hc⟩ := resizePending_form
  obtain ⟨t, ht, hbusy, hsize⟩ := step_resizePending
  obtain ⟨-, -, -, -, htx, -⟩ := h _ t hp hz hc ht
  omega

end Sys2Proof.Machine
end

section
/-!
PROOFS. What the windows, the lags and the pending marks come to when there are none: a use sees the value
as it stands, and no check stops it (70 R560 to R566; 52 R494; 44 R322).
-/
namespace Sys2Proof.Machine

/-! ### No window is open -/

section
variable {s : State} (h : s.recs = [])
include h

theorem recOf_of_nil (k : RecKey) : recOf s k = none := by
  unfold recOf
  rw [h]
  rfl

theorem useCheck_of_nil (k : RecKey) (d : Nat) : useCheck s k d = .ok () := by
  unfold useCheck
  rw [recOf_of_nil h]

theorem useVal_of_nil (k : RecKey) (d : Nat) (cur : Half) : useVal s k d cur = cur := by
  unfold useVal
  rw [recOf_of_nil h]

theorem table3Use_of_nil (u : Use) (r : Reg) : table3Use s u r = .ok () := by
  unfold table3Use
  rw [recOf_of_nil h]

theorem table3Val_of_nil (u : Use) (r : Reg) : table3Val s u r = s.regs[r] := by
  unfold table3Val
  rw [recOf_of_nil h]

theorem modeVal_of_nil (b : Fin 16) : modeVal s b = modeBit s b.val := by
  unfold modeVal
  rw [useVal_of_nil h]
  cases modeBit s b.val <;> rfl

theorem eventBit_of_nil (b : Fin 16) : eventBit s b = s.regs[57].getLsbD b.val := by
  unfold eventBit
  rw [useVal_of_nil h]
  cases s.regs[57].getLsbD b.val <;> rfl

theorem eventCheck_of_nil : eventCheck s = .ok () :=
  forM_ok.2 fun b _ => useCheck_of_nil h (.event b) 1

theorem txSizeSeen_of_nil : txSizeSeen s = txSizeOf s.regs[62] := by
  unfold txSizeSeen
  rw [useVal_of_nil h]

end

/-! ### No flag and no port lags -/

@[simp] theorem lagCheck_none (s : State) : lagCheck s none = .ok () := rfl

@[simp] theorem lagVal_none (s : State) (site : Nat) (cur : Bool) :
    lagVal s none site cur = cur := rfl

section
variable {s : State} (h : s.dmaLag = none)
include h

theorem dmaLagCheck_of_none (port : Fin 2) : dmaLagCheck s port = .ok () := by
  unfold dmaLagCheck dmaLagged
  rw [h]
  rfl

theorem dmaEss_of_none (port : Fin 2) (need cur : Nat) :
    dmaEss s port need cur = decide (need ≤ cur) := by
  unfold dmaEss
  rw [h]

end

/-! ### The External State Signals (10 R41) -/

/-- The mask 0x3F is the six event bits of R57 (10 R60). -/
theorem mask_low_six (i : Nat) : (0x003F : Half).getLsbD i = decide (i < 6) := by
  by_cases hi : i < 16
  · have := (by decide : ∀ k : Fin 16, (0x003F : Half).getLsbD k = decide (k.val < 6)) ⟨i, hi⟩
    exact this
  · rw [BitVec.getLsbD_of_ge _ _ (by omega), eq_comm, decide_eq_false_iff_not]
    omega

theorem low_six_ne_zero (v : Half) :
    (v &&& 0x003F != 0) = true ↔ ∃ b < 6, v.getLsbD b = true := by
  rw [bne_iff_ne]
  constructor
  · intro h
    by_contra hn
    refine h (BitVec.eq_of_getLsbD_eq fun i _ => ?_)
    rw [BitVec.getLsbD_and, mask_low_six]
    show _ = (0#16).getLsbD i
    rw [BitVec.getLsbD_zero]
    by_cases hi : i < 6
    · have : v.getLsbD i = false := by simpa using fun hv => hn ⟨i, hi, hv⟩
      rw [this, Bool.false_and]
    · rw [decide_eq_false hi, Bool.and_false]
  · rintro ⟨b, hb, hv⟩ h
    have hbit : (v &&& 0x003F).getLsbD b = true := by
      rw [BitVec.getLsbD_and, mask_low_six, hv, decide_eq_true hb, Bool.and_true]
    rw [h] at hbit
    simp at hbit

/-- ESS8 is the event bits of R57 taken together. -/
theorem ess_eight (s : State) : ess s 8 = true ↔ ∃ b < 6, s.regs[57].getLsbD b = true :=
  low_six_ne_zero _

theorem impliedUse_ok {s : State} (hr : s.recs = []) (ha : ∀ r : Reg, accessOne s r = .ok ())
    (r : Reg) (d : Nat) : impliedUse s r d = .ok () :=
  seq_ok.2 ⟨ha r, useCheck_of_nil hr (.reg r) d⟩

/-- The tests of a Branch instruction are open when no window is and nothing is owed (42 R261). -/
theorem essCheck_ok {s : State} (hr : s.recs = []) (hi : s.cinLag = none) (ho : s.coutLag = none)
    (hd : s.dmaLag = none) (ha : ∀ r : Reg, accessOne s r = .ok ()) (k : Fin 16) :
    essCheck s k = .ok () := by
  have h62 := impliedUse_ok hr ha 62 2
  have h8 : (do accessOne s 57; eventCheck s; impliedUse s 63 2 : Check Unit) = .ok () :=
    seq_ok.2 ⟨ha 57, seq_ok.2 ⟨eventCheck_of_nil hr, impliedUse_ok hr ha 63 2⟩⟩
  unfold essCheck
  split <;> simp [h62, h8, hi, ho, dmaLagCheck_of_none hd]

/-- Outside every window and lag a Branch instruction tests the signal itself (42 R261). -/
theorem essVal_eq {s : State} (hr : s.recs = []) (hi : s.cinLag = none) (ho : s.coutLag = none)
    (hd : s.dmaLag = none) (k : Fin 16) : essVal s k = ess s k := by
  obtain ⟨k, hk⟩ := k
  unfold essVal
  split <;> rename_i e <;> dsimp only at e <;> try subst e
  case h_1 => rw [hi]; rfl
  case h_2 => rw [ho]; rfl
  case h_3 =>
    rw [Bool.eq_iff_iff]
    refine Iff.trans ?_ (ess_eight s).symm
    simp [eventBit_of_nil hr, Fin.exists_iff]
  case h_4 => rw [txSizeSeen_of_nil hr]; rfl
  case h_9 => rfl
  all_goals rw [dmaEss_of_none hd]; rfl

/-- Outside every lag R42-read shows the signal itself (10 R40). -/
theorem essSeen_eq {s : State} (hi : s.cinLag = none) (ho : s.coutLag = none)
    (hd : s.dmaLag = none) (k : Fin 16) : essSeen s k = ess s k := by
  obtain ⟨k, hk⟩ := k
  unfold essSeen
  split <;> rename_i e <;> dsimp only at e <;> try subst e
  case h_1 => rw [hi]; rfl
  case h_2 => rw [ho]; rfl
  case h_7 => rfl
  all_goals rw [dmaEss_of_none hd]; rfl

theorem r42Read_bit (s : State) (k : Fin 16) : (r42Read s).getLsbD k.val = essSeen s k := by
  unfold r42Read
  rw [BitVec.getLsbD_ofFnLE, dif_pos k.isLt]

/-- Settles O20: the signals are read off `ess`, and with no window, no lag and nothing owed the test of a
Branch instruction and the bit of R42 are the signal itself. -/
theorem stateSignals : Obligations.StateSignals := by
  unfold Obligations.StateSignals
  intro s
  refine ⟨⟨rfl, rfl, ?_, ?_, rfl, ?_, rfl, rfl, ess_eight s, ?_, ?_, ?_, ?_, ?_, ?_, rfl⟩,
    fun hr hi ho hd ha k => ⟨essCheck_ok hr hi ho hd ha k, essVal_eq hr hi ho hd k,
      (r42Read_bit s k).trans (essSeen_eq hi ho hd k)⟩⟩
  all_goals simp [ess]

end Sys2Proof.Machine
end

section
/-!
PROOFS. What a read of each register gives when nothing is outstanding (10 R28 to R67), and when it can be
made.
-/
namespace Sys2Proof.Machine

/-! ### Nothing is outstanding -/

/-- A check followed by checks that pass answers what it answers alone. -/
theorem seq_of_ok {x k : Check Unit} (hk : k = .ok ()) : (do x; k) = x := by
  cases x with
  | error e => rfl
  | ok a => exact hk

section
variable {s : State} (h : Quiet s)
include h

theorem Quiet.recs : s.recs = [] := h.1

theorem Quiet.accessOne_ok (r : Reg) : accessOne s r = .ok () := by
  obtain ⟨-, -, hj, hl, hc, -, -, -, -, -, hp, -, -⟩ := h
  unfold accessOne pending orderCheck
  rw [hj, hl, hc, hp]
  rfl

theorem Quiet.impliedUse_ok (r : Reg) (d : Nat) : impliedUse s r d = .ok () :=
  Machine.impliedUse_ok h.recs h.accessOne_ok r d

theorem Quiet.modeUse_ok (b : Fin 16) : modeUse s b = .ok () := useCheck_of_nil h.recs _ _

theorem Quiet.modeVal (b : Fin 16) : modeVal s b = modeBit s b.val := modeVal_of_nil h.recs b

theorem Quiet.hecMode : hecMode s = modeBit s 9 := by
  have hm : modeRead s 9 = .ok () := seq_ok.2 ⟨h.accessOne_ok 42, h.modeUse_ok 9⟩
  unfold Machine.hecMode
  rw [hm, h.modeVal 9]
  rfl

theorem Quiet.plusUse_ok (r : Reg) : plusUse s r = .ok () := by
  obtain ⟨-, hp, -⟩ := h
  unfold plusUse plusOf
  rw [hp]
  rfl

theorem Quiet.plusVal_eq (r : Reg) (v : Half) : plusVal s r v = v := by
  obtain ⟨-, hp, -⟩ := h
  unfold plusVal plusOf
  rw [hp]
  rfl

theorem Quiet.crcOwned_eq (sel : CrcSel) : crcOwned s sel = false := by
  obtain ⟨-, -, -, -, -, h1, -⟩ := h
  unfold crcOwned
  rw [h1]
  rfl

theorem Quiet.pairUse_ok (u : Use) (r : Reg) : pairUse s u r = .ok () :=
  seq_ok.2 ⟨h.accessOne_ok r, table3Use_of_nil h.recs u r⟩

/-! ### When a register can be read -/

/-- What is left of the checks of a register that a read names: the HEC of an incomplete input (70 R566). -/
theorem Quiet.namedCheck_eq (u : Use) {r : Reg} (hr : r ≠ 36) :
    namedCheck u s r = raiseIf (r == 33 && modeBit s 9 && s.hecPhase == .seeded) .unwrittenRead := by
  have hu : unwrittenCheck s r =
      raiseIf (r == 33 && modeBit s 9 && s.hecPhase == .seeded) .unwrittenRead := by
    have hne : ((.ok () : Check Unit) != .error .stall) = true := rfl
    unfold unwrittenCheck
    rw [h.accessOne_ok, h.hecMode, hne, Bool.and_true]
  have hcrc : ∀ (sel : CrcSel) (q : Reg),
      (do raiseIf (crcOwned s sel) .crcPairBusy; table3Use s u q : Check Unit) = .ok () :=
    fun sel q => seq_ok.2 ⟨raiseIf_false (h.crcOwned_eq sel), table3Use_of_nil h.recs u q⟩
  have hrla : ∀ q : Reg, (do plusUse s q; table3Use s u q : Check Unit) = .ok () :=
    fun q => seq_ok.2 ⟨h.plusUse_ok q, table3Use_of_nil h.recs u q⟩
  have huse : ∀ (k : RecKey) (d : Nat), useCheck s k d = .ok () := useCheck_of_nil h.recs
  have h57 : (do
      raiseIf (crcOwned s .x || crcOwned s .y) .crcPairBusy
      if u = .other then eventCheck s : Check Unit) = .ok () :=
    seq_ok.2 ⟨raiseIf_false (by rw [h.crcOwned_eq, h.crcOwned_eq]; rfl),
      last_ok fun _ => eventCheck_of_nil h.recs⟩
  unfold namedCheck
  rw [if_neg hr, hu]
  refine seq_of_ok (seq_ok.2 ⟨h.accessOne_ok r, ?_⟩)
  obtain ⟨hrec, -, -, -, hcss, -, -, hin, hout, -, -, -, hlag⟩ := h
  split
  case h_1 => exact last_ok fun _ => huse .hec 3
  case h_2 => simp [hin, hout, dmaLagCheck_of_none hlag, seq_ok]
  case h_3 => exact huse .r43 2
  case h_12 => exact h57
  case h_13 | h_14 => exact table3Use_of_nil hrec u _
  case h_15 | h_17 | h_18 => exact huse _ 2
  case h_16 => exact raiseIf_false (by rw [hcss]; rfl)
  case h_19 => rfl
  case h_4 | h_5 | h_6 | h_7 => exact hcrc _ _
  all_goals exact hrla _

theorem Quiet.impliedCheck_ok (u : Use) (r : Reg) : impliedCheck u s r = .ok () := by
  unfold impliedCheck
  refine when_ok (fun _ => h.accessOne_ok 42) ?_
  split
  case h_3 =>
    refine seq_ok.2 ⟨h.modeUse_ok 8, ?_⟩
    split
    · exact h.impliedUse_ok 62 2
    · exact h.accessOne_ok 56
  case h_6 => exact seq_ok.2 ⟨h.impliedUse_ok 63 2, forM_ok.2 fun q _ => h.pairUse_ok u q⟩
  case h_7 => exact h.impliedUse_ok 60 2
  case h_8 => rfl
  all_goals exact h.modeUse_ok _

/-- Every register but R36 can be read, R33 in HEC mode only with a complete input (10 R32, R82). -/
theorem Quiet.readCheck_eq (u : Use) {r : Reg} (hr : r ≠ 36) :
    readCheck u s r = raiseIf (r == 33 && modeBit s 9 && s.hecPhase == .seeded) .unwrittenRead :=
  (seq_of_ok (h.impliedCheck_ok u r)).trans (h.namedCheck_eq u hr)

/-! ### What a read gives -/

/-- Most registers give what their cell holds. -/
theorem Quiet.readVal_cell (u : Use) {r : Reg} (hr : r.val ∉ [33, 42, 43, 52, 57, 60, 61]) :
    readVal u s r = s.regs[r] := by
  obtain ⟨k, hk⟩ := r
  unfold readVal
  split <;> rename_i e <;> dsimp only at e <;> try subst e
  case h_1 | h_2 | h_3 | h_12 | h_13 | h_16 | h_17 => exact absurd hr (by simp)
  case h_4 | h_5 | h_6 | h_7 | h_14 | h_15 => exact table3Val_of_nil h.recs u _
  case h_8 | h_9 | h_10 | h_11 => exact (h.plusVal_eq _ _).trans (table3Val_of_nil h.recs u _)
  case h_18 | h_19 => exact useVal_of_nil h.recs _ _ _
  case h_20 => rfl

theorem Quiet.readVal_r33_plain (u : Use) (hm : modeBit s 9 = false) :
    readVal u s 33 = s.regs[33] := by
  show (if Machine.modeVal s 9 then _ else _) = _
  rw [h.modeVal 9]
  exact if_neg (by simpa using hm)

theorem Quiet.readVal_r33_hec (u : Use) (hm : modeBit s 9 = true) (hp : s.hecPhase = .ready) :
    readVal u s 33 = (drawByte s 0 ++ hecResult s : BitVec 16) := by
  show (if Machine.modeVal s 9 then _ else _) = _
  rw [h.modeVal 9]
  refine (if_pos hm).trans ((if_pos hp).trans ?_)
  rw [recOf_of_nil h.recs]

theorem Quiet.readVal_r43 (u : Use) : readVal u s 43 = r43Read s (modeBit s 8) := by
  show useVal s .r43 2 (r43Read s (Machine.modeVal s 8)) = _
  rw [useVal_of_nil h.recs, h.modeVal 8]
  rfl

theorem Quiet.r57Seen_eq (u : Use) : r57Seen u s = r57Read s (crcX s) (crcY s) := by
  unfold r57Seen pairSeen
  rw [table3Val_of_nil h.recs, table3Val_of_nil h.recs, table3Val_of_nil h.recs,
    table3Val_of_nil h.recs]
  rfl

theorem Quiet.readVal_r57 (u : Use) : readVal u s 57 = r57Read s (crcX s) (crcY s) := by
  rw [← h.r57Seen_eq u]
  show (if u = .other then _ else _) = _
  split
  · refine BitVec.eq_of_getLsbD_eq fun i hi => ?_
    rw [BitVec.getLsbD_ofFnLE, dif_pos hi, recOf_of_nil h.recs]
    rfl
  · rfl

theorem Quiet.readVal_r60 (u : Use) :
    readVal u s 60 = (s.regs[60].extractLsb' 8 8 ++ drawByte s 1 : BitVec 16) := by
  show ((useVal s (.reg 60) 2 s.regs[60]).extractLsb' 8 8 ++ drawByte s 1 : BitVec 16) = _
  rw [useVal_of_nil h.recs]
end

/-- Bit-swap mode: R43 gives the bits of R56 in the opposite order (10 R45). -/
theorem reverseBits_bit (v : Half) {i : Nat} (hi : i < 16) :
    (reverseBits v).getLsbD i = v.getLsbD (15 - i) := by
  have : (msbBits v).getD i false = v.getMsbD i := by simp [msbBits, hi]
  show (BitVec.ofBoolListLE (msbBits v)).getLsbD i = _
  rw [BitVec.getLsbD_ofBoolListLE, this, BitVec.getMsbD_eq_getLsbD, decide_eq_true hi]
  rfl

/-- Special-features mode: where the counters lie in R43 (10 R45). -/
theorem r43Read_special (s : State) : (r43Read s true).extractLsb' 11 3 = s.dma2Count ∧
    (r43Read s true).extractLsb' 4 4 =
      BitVec.ofNat 4 (if s.opts.getLsbD 1 then s.rxfull else s.rxbusy) ∧
    (r43Read s true).extractLsb' 0 4 =
      BitVec.ofNat 4 (if s.opts.getLsbD 0 then s.txfull else s.txbusy) := by
  unfold r43Read
  dsimp only
  rw [if_pos rfl]
  refine ⟨?_, ?_, ?_⟩
  · rw [BitVec.extractLsb'_append_eq_of_le (by decide), BitVec.extractLsb'_append_eq_of_le (by decide),
      BitVec.extractLsb'_append_eq_of_le (by decide)]
    exact BitVec.extractLsb'_append_eq_right
  · rw [BitVec.extractLsb'_append_eq_of_le (by decide)]
    exact BitVec.extractLsb'_append_eq_right
  · exact BitVec.extractLsb'_append_eq_right

/-! ### The bits of R57 (10 R59, R61) -/

/-- A flag of one bit. -/
theorem flag_bit (c : Prop) [Decidable c] {k : Nat} (hk : k < 16) (i : Nat) :
    (if c then BitVec.twoPow 16 k else 0).getLsbD i = (decide c && decide (k = i)) := by
  split <;> simp [*]

/-- The mask of the bits of R57 that its cell gives (10 R60). -/
theorem mask_event (i : Nat) (hi : i < 16) :
    (0xFC3F : Half).getLsbD i = (decide (i < 6) || decide (9 < i)) :=
  (by decide : ∀ k : Fin 16,
    (0xFC3F : Half).getLsbD k = (decide (k.val < 6) || decide (9 < k.val))) ⟨i, hi⟩

/-- R57-read, bit by bit: the cell, and four live bits. -/
theorem r57Read_bit (s : State) (x y : BitVec 32) {i : Nat} (hi : i < 16) :
    (r57Read s x y).getLsbD i =
      (s.regs[57].getLsbD i && (decide (i < 6) || decide (9 < i)) ||
        decide (s.txbusy ≠ 0) && decide (9 = i) ||
        decide (rxSizeOf s.regs[62] ≠ 0 ∧ s.rxfull = rxSizeOf s.regs[62]) && decide (8 = i) ||
        decide (crc32Ok s.cfg x = false) && decide (7 = i) ||
        decide (crc32Ok s.cfg y = false) && decide (6 = i)) := by
  have e : r57Read s x y = (s.regs[57] &&& 0xFC3F) |||
      (if s.txbusy ≠ 0 then BitVec.twoPow 16 9 else 0) |||
      (if rxSizeOf s.regs[62] ≠ 0 ∧ s.rxfull = rxSizeOf s.regs[62] then BitVec.twoPow 16 8 else 0) |||
      (if crc32Ok s.cfg x = false then BitVec.twoPow 16 7 else 0) |||
      (if crc32Ok s.cfg y = false then BitVec.twoPow 16 6 else 0) := by
    unfold r57Read
    rw [ite_not]
    cases crc32Ok s.cfg x <;> cases crc32Ok s.cfg y <;> rfl
  rw [e, BitVec.getLsbD_or, BitVec.getLsbD_or, BitVec.getLsbD_or, BitVec.getLsbD_or,
    BitVec.getLsbD_and, mask_event i hi, flag_bit _ (by decide), flag_bit _ (by decide),
    flag_bit _ (by decide), flag_bit _ (by decide)]

/-- The bits below 6 and above 9 of R57-read are the cell's. -/
theorem r57Read_cell (s : State) (x y : BitVec 32) :
    (r57Read s x y).extractLsb' 0 6 = s.regs[57].extractLsb' 0 6 ∧
      (r57Read s x y).extractLsb' 10 6 = s.regs[57].extractLsb' 10 6 := by
  have hcell : ∀ i, i < 16 → i < 6 ∨ 9 < i →
      (r57Read s x y).getLsbD i = s.regs[57].getLsbD i := by
    intro i hi ho
    have h6 : 6 ≠ i := by omega
    have h7 : 7 ≠ i := by omega
    have h8 : 8 ≠ i := by omega
    have h9 : 9 ≠ i := by omega
    rw [r57Read_bit s x y hi]
    simp [h6, h7, h8, h9, ho]
  constructor
  · refine BitVec.eq_of_getLsbD_eq fun i hi => ?_
    rw [BitVec.getLsbD_extractLsb', BitVec.getLsbD_extractLsb',
      hcell (0 + i) (by omega) (by omega)]
  · refine BitVec.eq_of_getLsbD_eq fun i hi => ?_
    rw [BitVec.getLsbD_extractLsb', BitVec.getLsbD_extractLsb',
      hcell (10 + i) (by omega) (by omega)]

/-- The live bits of R57-read. -/
theorem r57Read_live (s : State) (x y : BitVec 32) :
    ((r57Read s x y).getLsbD 6 = true ↔ crc32Ok s.cfg y = false) ∧
      ((r57Read s x y).getLsbD 7 = true ↔ crc32Ok s.cfg x = false) ∧
      ((r57Read s x y).getLsbD 8 = true ↔
        rxSizeOf s.regs[62] ≠ 0 ∧ s.rxfull = rxSizeOf s.regs[62]) ∧
      ((r57Read s x y).getLsbD 9 = true ↔ s.txbusy ≠ 0) := by
  refine ⟨?_, ?_, ?_, ?_⟩ <;> rw [r57Read_bit s x y (by decide)] <;> simp

/-! ### The statement -/

/-- Settles O50: in a quiet state the only check that can stop a read is that of the HEC input, and the
value is read off the case of `readVal` for the register. -/
theorem registerReads : Obligations.RegisterReads := by
  unfold Obligations.RegisterReads
  intro s u r h hr
  refine ⟨?_, ?_, h.readVal_cell u, ?_, ?_, ?_, ?_, ?_, ?_, ?_, ?_⟩
  · intro hi
    refine (h.readCheck_eq u hr).trans (raiseIf_false ?_)
    simpa [and_assoc] using hi
  · rintro ⟨rfl, hm, hp⟩
    rw [h.readCheck_eq u hr, hm, hp]
    rfl
  · rintro rfl
    exact h.readVal_r33_plain u
  · rintro rfl hm hp
    rw [h.readVal_r33_hec u hm hp]
    exact BitVec.extractLsb'_append_eq_right
  · rintro rfl hm i hi
    rw [h.readVal_r43 u, hm]
    exact reverseBits_bit _ hi
  · rintro rfl hm
    rw [h.readVal_r43 u, hm]
    exact r43Read_special s
  · rintro rfl
    exact ⟨(BitVec.extractLsb'_append_eq_of_le (by decide)).trans BitVec.extractLsb'_append_eq_left,
      BitVec.extractLsb'_append_eq_right⟩
  · rintro rfl
    rw [h.readVal_r57 u]
    obtain ⟨hlo, hhi⟩ := r57Read_cell s (crcX s) (crcY s)
    exact ⟨hlo, hhi, r57Read_live s (crcX s) (crcY s)⟩
  · rintro rfl
    rw [h.readVal_r60 u]
    exact BitVec.extractLsb'_append_eq_left
  · rintro rfl
    exact BitVec.extractLsb'_append_eq_right

end Sys2Proof.Machine
end

section
/-!
PROOFS. What a write of each register does, by the instruction that writes an immediate: LIMD (10 R31 to
R64; 40 R206).
-/
namespace Sys2Proof.Machine

/-! ### A register write by LIMD -/

/-- The state in which a LIMD writes its destination: the instruction has passed. -/
def limdMid (s : State) (rd : Reg) (v : Half) : State := aluMid s (limdOp rd false v)

/-- The state after a LIMD without Update Memory. -/
def limdNext (s : State) (rd : Reg) (v : Half) : State :=
  advance (writeReg s (limdMid s rd v) rd v) s.fq

/-- A ready LIMD completes in `limdNext`. -/
theorem execLimd_ready {s : State} {rd : Reg} {v : Half} (hp : PendingForm s)
    (h : AluReady s [] rd false v none) :
    exec (.limd rd false v) s = .next (limdNext s rd v) ∧
      AluDone s (limdNext s rd v) [] rd false v none :=
  ⟨runAlu_ok (aluCheck_of_ready (o := limdOp rd false v) rfl rfl rfl h),
    (aluNext_done (o := limdOp rd false v) hp rfl (destCheck_plus h.2.1.2.1).2).1⟩

/-- The next address changes nothing that the passing of an instruction may not change. -/
theorem advance_eq_passing (s : State) (q : List (BitVec 17 × FlowTag)) :
    advance s q = passing s (advance s q) := by
  cases q <;> rfl

/-- Before its destination write, a LIMD has changed nothing but what the passing of an instruction may
change. -/
theorem passing_limdMid (s t : State) (rd : Reg) (v : Half) :
    passing (limdMid s rd v) t = passing s t := by
  simp [passing, limdMid, limdOp]

theorem limdMid_reg {s : State} (hp : PendingForm s) {r : Reg} (hr : r.val < 48 ∨ 51 < r.val)
    (rd : Reg) (v : Half) : (limdMid s rd v).regs[r] = s.regs[r] := by
  unfold limdMid
  rw [aluMid_regs]
  exact ripen_other _ _ (hp.no_plus hr)

/-- A register whose cell a write keeps is in the frame too. -/
theorem RegsFrame.of_kept {s t : State} {r : Reg} (h : RegsFrame s t [r])
    (hr : t.regs[r] = s.regs[r]) : RegsFrame s t [] := by
  intro q _ hq
  by_cases e : q = r
  · rw [e]; exact hr
  · exact h q (by simpa using e) hq

/-! ### Control bytes (10 R42, R60) -/

/-- The control byte for bit `b` names that bit and carries the new value. -/
theorem ctl_of_byte : ∀ (b : Fin 16) (on : Bool),
    ctlBit (BitVec.ofNat 16 (b.val + if on then 128 else 0)) = b ∧
      ctlSet (BitVec.ofNat 16 (b.val + if on then 128 else 0)) = on := by
  decide

/-- One bit of a halfword is changed, and no other. -/
theorem putBit_bit (w : Half) (b : Nat) (on : Bool) {i : Nat} (hi : i < 16) :
    (putBit w b on).getLsbD i = if i = b then on else w.getLsbD i := by
  have hb : ((1 : Half) <<< b).getLsbD i = decide (i = b) := by
    show (1#16 <<< b).getLsbD i = _
    rw [← BitVec.twoPow_eq, BitVec.getLsbD_twoPow]
    by_cases e : i = b
    · subst e; simp [hi]
    · simp [e, Ne.symm e]
  unfold putBit
  cases on
  · rw [if_neg (by decide), BitVec.getLsbD_and, BitVec.getLsbD_not, hb]
    by_cases e : i = b <;> simp [e, hi]
  · rw [if_pos rfl, BitVec.getLsbD_or, hb]
    by_cases e : i = b <;> simp [e]

/-- The mode bits after a control byte for R42 (10 R42). -/
theorem limdNext_mode (s : State) (v : Half) :
    (limdNext s 42 v).mode = putBit s.mode (ctlBit v).val (ctlSet v) := by
  unfold limdNext
  rw [advance_mode]
  show putBit (limdMid s 42 v).mode _ _ = _
  unfold limdMid
  rw [aluMid_mode]

/-- The cell of R57 after a control byte, bit by bit (10 R60, R61). -/
theorem storedAs_r57_bit (s : State) (v : Half) {i : Nat} (hi : i < 16) :
    (storedAs s 57 v).getLsbD i =
      if i = (ctlBit v).val ∧ ¬ (6 ≤ i ∧ i ≤ 9) then ctlSet v || heldSet s i
      else s.regs[57].getLsbD i := by
  show (if 6 ≤ (ctlBit v).val ∧ (ctlBit v).val ≤ 9 then s.regs[57]
    else putBit s.regs[57] (ctlBit v).val (ctlSet v || heldSet s (ctlBit v).val)).getLsbD i = _
  split
  · rename_i hb
    rw [if_neg (by omega)]
  · rename_i hb
    rw [putBit_bit _ _ _ hi]
    by_cases e : i = (ctlBit v).val
    · rw [if_pos e, if_pos (by omega), e]
    · rw [if_neg e, if_neg (by omega)]

theorem heldSet_iff (s : State) (b : Nat) : heldSet s b = true ↔
    b < 4 ∧ s.icsi.getLsbD b = true ∧ s.icsiPrev.getLsbD b = true ∧
      s.regs[63].getLsbD (8 + b) = true := by
  simp [heldSet, and_assoc]

/-- Settles O48: a control byte is a write of one bit of the mode bits, or of one bit of R57 that a held
pin keeps set. -/
theorem controlBytes : Obligations.ControlBytes := by
  unfold Obligations.ControlBytes
  intro s b on hp v held
  have hbit : ctlBit v = b := (ctl_of_byte b on).1
  have hset : ctlSet v = on := (ctl_of_byte b on).2
  refine ⟨fun h => ?_, fun h => ?_⟩
  · obtain ⟨he, hd⟩ := execLimd_ready hp h
    refine ⟨_, he, fun i hi => ?_, hd.regs⟩
    rw [limdNext_mode, hbit, hset]
    exact putBit_bit _ _ _ hi
  · obtain ⟨he, hd⟩ := execLimd_ready hp h
    have hmode := congrArg State.mode (hd.plain (by unfold PlainDest; decide))
    refine ⟨_, he, hmode, hd.regs, fun i hi => ?_⟩
    have hcell : (limdNext s 57 v).regs[57] = storedAs s 57 v := hd.dest
    rw [hcell, storedAs_r57_bit s _ hi, hbit, hset]
    split
    · rename_i e
      obtain rfl : b.val = i := e.1.symm
      rw [Bool.or_eq_true, heldSet_iff]
    · rfl

end Sys2Proof.Machine
end

section
/-!
PROOFS. The registers with a circuit behind them (10 R31, R32, R46, R57, R58, R64, R81, R82; 43 R299; 50
R423), and the plain ones.
-/
namespace Sys2Proof.Machine

/-- A LIMD changes what its destination write changes, and what the passing of an instruction may. -/
theorem limdNext_eq (s : State) (rd : Reg) (v : Half) : limdNext s rd v =
    passing (writeReg s (limdMid s rd v) rd v) (limdNext s rd v) :=
  advance_eq_passing _ _

theorem cssResets_r60 (v : Half) : cssResets 60 v = v.getLsbD 14 := rfl

section
variable {s : State} {v : Half} (hp : PendingForm s)
include hp

/-- R32 (10 R31): in HEC mode the first halfword of the HEC8 input. -/
theorem limd_r32 (h : AluReady s [] 32 false v none) :
    ∃ t, exec (.limd 32 false v) s = .next t ∧ t.regs[32] = v ∧ RegsFrame s t [32] ∧
      (modeVal s 9 = true → t.hecA = v ∧ t.hecPhase = .seeded) ∧
      (modeVal s 9 = false → t.hecA = s.hecA ∧ t.hecPhase = s.hecPhase) ∧
      t = { passing s t with hecA := t.hecA, hecPhase := t.hecPhase } := by
  obtain ⟨he, hd⟩ := execLimd_ready hp h
  have hw : writeReg s (limdMid s 32 v) 32 v = if modeVal s 9 then
    { setReg (limdMid s 32 v) 32 v with hecA := v, hecPhase := .seeded }
    else setReg (limdMid s 32 v) 32 v := rfl
  refine ⟨_, he, hd.dest, hd.regs, fun hm => ?_, fun hm => ?_, ?_⟩
  · rw [limdNext, hw, hm]
    simp
  · rw [limdNext, hw, hm]
    simp [limdMid]
  · refine (limdNext_eq s 32 v).trans ?_
    rw [← passing_limdMid s _ 32 v]
    have hA : (limdNext s 32 v).hecA = _ := advance_hecA _ _
    have hP : (limdNext s 32 v).hecPhase = _ := advance_hecPhase _ _
    rw [hA, hP, hw]
    cases modeVal s 9 <;> rfl

/-- R33 (10 R32): in HEC mode the second halfword, which makes a seeded input ready. -/
theorem limd_r33 (h : AluReady s [] 33 false v none) :
    ∃ t, exec (.limd 33 false v) s = .next t ∧ t.regs[33] = v ∧ RegsFrame s t [33] ∧
      (modeVal s 9 = true → t.hecB = v ∧
        t.hecPhase = if s.hecPhase = .seeded then .ready else s.hecPhase) ∧
      (modeVal s 9 = false → t.hecB = s.hecB ∧ t.hecPhase = s.hecPhase) ∧
      t = { passing s t with hecB := t.hecB, hecPhase := t.hecPhase } := by
  obtain ⟨he, hd⟩ := execLimd_ready hp h
  have hw : writeReg s (limdMid s 33 v) 33 v = if modeVal s 9 then
    addRec { setReg (limdMid s 33 v) 33 v with
      hecB := v, hecPhase := hecNext (limdMid s 33 v).hecPhase } .hec (limdMid s 33 v).regs[33] .plain
    else setReg (limdMid s 33 v) 33 v := rfl
  refine ⟨_, he, hd.dest, hd.regs, fun hm => ?_, fun hm => ?_, ?_⟩
  · rw [limdNext, hw, hm]
    cases hph : s.hecPhase <;> simp [limdMid, hph, hecNext]
  · rw [limdNext, hw, hm]
    simp [limdMid]
  · refine (limdNext_eq s 33 v).trans ?_
    rw [← passing_limdMid s _ 33 v]
    have hB : (limdNext s 33 v).hecB = _ := advance_hecB _ _
    have hP : (limdNext s 33 v).hecPhase = _ := advance_hecPhase _ _
    rw [hB, hP, hw]
    cases modeVal s 9 <;> rfl

/-- R43 (10 R46): a control entry, and the options under mode bit 8 (92 D31). -/
theorem limd_r43 (h : AluReady s [] 43 false v none) :
    ∃ t, exec (.limd 43 false v) s = .next t ∧ RegsFrame s t [] ∧
      t.fifo[s.fifoWr] = v.extractLsb' 0 7 ∧
      (∀ k : Fin 8, k ≠ s.fifoWr → t.fifo[k] = s.fifo[k]) ∧
      t = { passing s t with
        fifo := t.fifo, fifoWr := s.fifoWr + 1,
        opts := if modeVal s 8 then v.extractLsb' 8 6 else s.opts } := by
  obtain ⟨he, hd⟩ := execLimd_ready hp h
  have hw : writeReg s (limdMid s 43 v) 43 v = writeFifo s (limdMid s 43 v) v := rfl
  have hf : (limdNext s 43 v).fifo = s.fifo.set s.fifoWr (v.extractLsb' 0 7) := by
    rw [limdNext, hw, writeFifo]
    cases modeVal s 8 <;> simp [limdMid]
  refine ⟨_, he, hd.regs.of_kept hd.dest, ?_, fun k hk => ?_, ?_⟩
  · rw [hf]
    exact Vector.getElem_set_self ..
  · rw [hf]
    exact Vector.getElem_set_ne _ _ fun e => hk (Fin.ext e.symm)
  · refine (limdNext_eq s 43 v).trans ?_
    rw [← passing_limdMid s _ 43 v]
    have hF : (limdNext s 43 v).fifo = _ := advance_fifo _ _
    have hW : (limdMid s 43 v).fifoWr = s.fifoWr := aluMid_fifoWr ..
    have hO : (limdMid s 43 v).opts = s.opts := aluMid_opts ..
    rw [hF, ← hW, ← hO, hw, writeFifo]
    cases modeVal s 8 <;> rfl

/-- R54 (10 R57): the initialization value of PIT0. -/
theorem limd_r54 (h : AluReady s [] 54 false v none) :
    ∃ t, exec (.limd 54 false v) s = .next t ∧ t.regs[54] = v ∧ RegsFrame s t [54] ∧
      t = { passing s t with pitInit0 := v } := by
  obtain ⟨he, hd⟩ := execLimd_ready hp h
  refine ⟨_, he, hd.dest, hd.regs, (limdNext_eq s 54 v).trans ?_⟩
  rw [← passing_limdMid s _ 54 v]
  rfl

/-- R55 (10 R58): the initialization value of PIT1. -/
theorem limd_r55 (h : AluReady s [] 55 false v none) :
    ∃ t, exec (.limd 55 false v) s = .next t ∧ t.regs[55] = v ∧ RegsFrame s t [55] ∧
      t = { passing s t with pitInit1 := v } := by
  obtain ⟨he, hd⟩ := execLimd_ready hp h
  refine ⟨_, he, hd.dest, hd.regs, (limdNext_eq s 55 v).trans ?_⟩
  rw [← passing_limdMid s _ 55 v]
  rfl

/-- R60 (10 R64; 43 R299): a write with CR set resets the Cell Scheduling System (92 D46). -/
theorem limd_r60 (h : AluReady s [] 60 false v none) :
    ∃ t, exec (.limd 60 false v) s = .next t ∧ t.regs[60] = v &&& 0xFF00 ∧
      (v.getLsbD 14 = true → RegsFrame s t [60, 61] ∧ (∀ a, Memory.read t.sb a = none) ∧
        t = { passing s t with acf := t.acf, sb := t.sb }) ∧
      (v.getLsbD 14 = false → RegsFrame s t [60] ∧ t = passing s t) := by
  obtain ⟨he, hd⟩ := execLimd_ready hp h
  have hw : writeReg s (limdMid s 60 v) 60 v =
    if v.getLsbD 14 then cssReset (setRec (limdMid s 60 v) 60 (v &&& 0xFF00))
    else setRec (limdMid s 60 v) 60 (v &&& 0xFF00) := rfl
  have hr := hd.regs
  refine ⟨_, he, hd.dest, fun hc => ?_, fun hc => ?_⟩
  · rw [cssResets_r60, hc, if_pos rfl] at hr
    have hA : (limdNext s 60 v).acf = _ := advance_acf _ _
    have hB : (limdNext s 60 v).sb = _ := advance_sb _ _
    refine ⟨hr, fun a => ?_, (limdNext_eq s 60 v).trans ?_⟩
    · rw [hB, hw, hc]
      rfl
    · rw [← passing_limdMid s _ 60 v, hA, hB, hw, hc]
      rfl
  · rw [cssResets_r60, hc, if_neg (by decide)] at hr
    refine ⟨hr, (limdNext_eq s 60 v).trans ?_⟩
    rw [← passing_limdMid s _ 60 v, hw, hc]
    rfl

/-- R62 (50 R423): a side that leaves reset mode starts at its first holder with empty counters (92
D62). -/
theorem limd_r62 (h : AluReady s [] 62 false v none) :
    ∃ t, exec (.limd 62 false v) s = .next t ∧ t.regs[62] = v ∧ RegsFrame s t [62] ∧
      (if rxSizeOf s.regs[62] = 0 ∧ rxSizeOf v ≠ 0 then
        t.rxIdx = 0 ∧ t.rxbusy = 0 ∧ t.rxfull = 0
       else t.rxIdx = s.rxIdx ∧ t.rxbusy = s.rxbusy ∧ t.rxfull = s.rxfull) ∧
      (if txSizeOf s.regs[62] = 0 ∧ txSizeOf v ≠ 0 then
        t.txIdx = 0 ∧ t.txbusy = 0 ∧ t.txfull = 0
       else t.txIdx = s.txIdx ∧ t.txbusy = s.txbusy ∧ t.txfull = s.txfull) ∧
      t = { passing s t with rxIdx := t.rxIdx, rxbusy := t.rxbusy, rxfull := t.rxfull,
                             txIdx := t.txIdx, txbusy := t.txbusy, txfull := t.txfull } := by
  obtain ⟨he, hd⟩ := execLimd_ready hp h
  have hw : writeReg s (limdMid s 62 v) 62 v = writeUtopia (limdMid s 62 v) v := rfl
  have h62 : (limdMid s 62 v).regs[62] = s.regs[62] := limdMid_reg hp (r := 62) (by decide) 62 v
  refine ⟨_, he, hd.dest, hd.regs, ?_, ?_, (limdNext_eq s 62 v).trans ?_⟩
  · rw [limdNext, hw, writeUtopia, h62]
    split <;> rename_i hup
    · simp [hup]
    · have hup : (rxSizeOf s.regs[62] == 0 && rxSizeOf v != 0) = false := by simpa using hup
      simp [hup, limdMid]
  · rw [limdNext, hw, writeUtopia, h62]
    split <;> rename_i hup
    · simp [hup]
    · have hup : (txSizeOf s.regs[62] == 0 && txSizeOf v != 0) = false := by simpa using hup
      simp [hup, limdMid]
  · rw [← passing_limdMid s _ 62 v]
    have h1 : (limdNext s 62 v).rxIdx = _ := advance_rxIdx _ _
    have h2 : (limdNext s 62 v).rxbusy = _ := advance_rxbusy _ _
    have h3 : (limdNext s 62 v).rxfull = _ := advance_rxfull _ _
    have h4 : (limdNext s 62 v).txIdx = _ := advance_txIdx _ _
    have h5 : (limdNext s 62 v).txbusy = _ := advance_txbusy _ _
    have h6 : (limdNext s 62 v).txfull = _ := advance_txfull _ _
    rw [h1, h2, h3, h4, h5, h6]
    rfl
end

/-- Settles O49: each register's write side, as LIMD reaches it. -/
theorem specialWrites : Obligations.SpecialWrites := by
  unfold Obligations.SpecialWrites
  intro s v hp
  exact ⟨limd_r32 hp, limd_r33 hp, limd_r43 hp, limd_r54 hp, limd_r55 hp, limd_r60 hp, limd_r62 hp⟩

/-! ### The plain registers (10 R33, R34) -/

/-- A register that no mode bit and no window concerns can be read once it can be accessed. -/
theorem readable_r34_r35 {u : Use} {s : State} {r : Reg} (hr : r = 34 ∨ r = 35)
    (h : accessCheck s r = .ok ()) : Readable u s r := by
  have ha : accessOne s r = .ok () := (seq_ok.1 h).1
  rcases hr with rfl | rfl
  · exact seq_ok.2 ⟨seq_ok.2 ⟨rfl, seq_ok.2 ⟨ha, rfl⟩⟩, rfl⟩
  · exact seq_ok.2 ⟨seq_ok.2 ⟨rfl, seq_ok.2 ⟨ha, rfl⟩⟩, rfl⟩

/-- Settles O54: R34 and R35 fall into the plain cases of every function of the register file. -/
theorem plainRegisters : Obligations.PlainRegisters := by
  unfold Obligations.PlainRegisters
  refine ⟨by decide, by decide, ?_⟩
  rintro u w s r v hr
  refine ⟨?_, ?_, ?_, readable_r34_r35 hr⟩
  · rcases hr with rfl | rfl <;> rfl
  · rcases hr with rfl | rfl <;> rfl
  · rcases hr with rfl | rfl <;> exact Vector.getElem_set_self ..

/-! ### Reset (10 R86) -/

/-- Settles O53: the values are those of `State.initial`, and every queue is empty there. -/
theorem resetValues : Obligations.ResetValues := by
  unfold Obligations.ResetValues
  decide

theorem memoryForm_reset : MemoryForm State.reset :=
  ⟨.nil, .nil, .nil, .nil, .nil, .nil, .nil, .nil⟩

theorem queueBounds_reset : QueueBounds State.reset := by
  unfold QueueBounds
  decide

theorem reservedZero_reset : ReservedZero State.reset := by
  unfold ReservedZero
  decide

theorem countersInRange_reset : CountersInRange State.reset := by
  unfold CountersInRange
  decide

/-- Nothing is pending at reset. -/
theorem pendingForm_initial : PendingForm State.reset :=
  ⟨nofun, nofun, nofun⟩

/-- Settles O56. -/
theorem resetForm : Obligations.ResetForm := by
  unfold Obligations.ResetForm
  exact ⟨memoryForm_reset, queueBounds_reset, pendingForm_initial, reservedZero_reset,
    countersInRange_reset⟩

end Sys2Proof.Machine
end

section
/-!
PROOFS. The Bit Bucket R36 (10 R35; 92 D23): what is written to it is discarded, and every instruction that
names it as a source leaves the SWAN stuck, since no check before that of the sources stops it.
-/
namespace Sys2Proof.Machine

/-! ### A write of R36 -/

/-- A LIMD to R36 changes nothing but what the passing of an instruction may change. -/
theorem limd_r36 {s : State} {v : Half} (hp : PendingForm s) (h : AluReady s [] 36 false v none) :
    ∃ t, exec (.limd 36 false v) s = .next t ∧ RegsFrame s t [] ∧ SameMemory s t ∧
      t = passing s t := by
  obtain ⟨he, hd⟩ := execLimd_ready hp h
  refine ⟨_, he, hd.regs.of_kept hd.dest, ⟨hd.bytes, (hd.bits rfl).1⟩, (limdNext_eq s 36 v).trans ?_⟩
  rw [← passing_limdMid s _ 36 v]
  rfl

/-! ### Sticking -/

theorem seq_error {β : Type} {x : Check Unit} {k : Check β} {e : Stop} (h : x = .error e) :
    (do x; k) = .error e := by
  rw [h]; rfl

/-- A check that passes leaves the answer to the checks after it. -/
theorem seq_ok_left {β : Type} {x : Check Unit} {k r : Check β} (h : x = .ok ()) (hk : k = r) :
    (do x; k) = r := by
  rw [h]; exact hk

theorem complete_stuck {s : State} {r : Check State} (hr : r = .error .stuck) :
    complete s r = .next { waiting s with stuck := true } := by
  rw [hr]; rfl

/-- An instruction whose checks answer that the SWAN is stuck sticks (10 R35). -/
theorem sticks_of_complete {i : Instr} {s : State} {r : Check State} (he : exec i s = complete s r)
    (hr : r = .error .stuck) : Sticks i s :=
  ⟨_, he.trans (complete_stuck hr), rfl, rfl⟩

theorem abcCheck_ok {c : Abc} {k : Nat} (h : SignTest c k) : abcCheck c k = .ok () := by
  refine raiseIf_false ?_
  cases hc : abcSign c
  · rfl
  · simp [h hc]

theorem cmpCodeCheck_ok {s : State} {cc : BitVec 3} {k : Nat} (h : CompareTest s cc k) :
    cmpCodeCheck s cc k = .ok () := by
  by_cases hc : cc = 0
  · exact seq_ok.2 ⟨raiseIf_false (by simp [hc]), raiseIf_false (by simp [hc])⟩
  · obtain ⟨h1, h2⟩ := h hc
    refine seq_ok.2 ⟨raiseIf_false ?_, raiseIf_false (by simp [h2])⟩
    rw [← Option.not_isSome, h1]
    simp

/-- An ALU instruction whose first source is R36 sticks: only its own fields are checked before. -/
theorem sticks_alu {i : Instr} {s : State} {o : AluOp} {l : List Reg}
    (he : exec i s = runAlu s o) (hpre : o.pre = .ok ()) (hrd : o.rd ≠ some 61)
    (hs : o.srcs = 36 :: l) : Sticks i s := by
  refine sticks_of_complete he (seq_error (seq_ok_left hpre (seq_ok_left (raiseIf_false ?_)
    (seq_error (hs ▸ sourceCheck_r36 .alu s l)))))
  simpa using hrd

section
variable {i : Instr} {s : State} {l : List Reg}

theorem sticks_arith {rd : Reg} {um ae : Bool} {abc : Abc} {k : Nat} {a alu : Half}
    {ovf : Option Bool} (he : exec i s = runAlu s (arithOp s rd um abc (36 :: l) k ae a alu ovf))
    (hrd : rd ≠ 61) (ht : SignTest abc k) : Sticks i s :=
  sticks_alu he (abcCheck_ok ht) (fun e => hrd (Option.some.inj e)) rfl

theorem sticks_extreme {rd : Reg} {um ae : Bool} {cc : BitVec 3} {k : Nat} {a b win : Half}
    (he : exec i s = runAlu s (extremeOp s rd um cc (36 :: l) k ae a b win))
    (hrd : rd ≠ 61) (ht : CompareTest s cc k) : Sticks i s :=
  sticks_alu he (cmpCodeCheck_ok ht) (fun e => hrd (Option.some.inj e)) rfl

theorem sticks_compare {ae : Bool} {cc : BitVec 3} {c : CmpState}
    (he : exec i s = runAlu s (compareOp s cc (36 :: l) ae c)) (ht : CompareTest s cc 16) :
    Sticks i s :=
  sticks_alu he (cmpCodeCheck_ok ht) nofun rfl

/-- A Cell Scheduling instruction with R36 as its first source sticks; a POPC has no such source. -/
theorem sticks_css {o : CssIssue} (he : exec i s = runCss s o) (hk : (o.kind == .popc) = false)
    (hs : o.srcs = 36 :: l) : Sticks i s := by
  refine sticks_of_complete he (seq_error (seq_ok_left (raiseIf_false ?_)
    (seq_error (hs ▸ sourceCheck_r36 .other s l))))
  rw [hk, Bool.false_and]

/-- A halfword store to Fast Memory whose first source is R36 sticks. -/
theorem sticks_fmStore {hold : CrcSel} {regs : List Reg} {src : Reg} {a : BitVec 20}
    (he : exec i s = runFmStore s hold regs src a) (hr : regs = 36 :: l) : Sticks i s :=
  sticks_of_complete he (seq_error (seq_error (by
    rw [hr]; exact sourceCheck_r36 .other s (l ++ [src]))))

/-- A DMA instruction that passes the checks of its own fields and addresses through R36 sticks. -/
theorem sticks_dma {o : DmaOp} (he : exec i s = runDma s o) (hr : o.rsa = 36)
    (hc : controlCheck s o = .ok ()) (hp : plusCheck o = .ok ()) : Sticks i s :=
  sticks_of_complete he (seq_error (seq_ok_left hc (seq_ok_left hp (seq_error (seq_error (by
    rw [hr]; exact sourceCheck_r36 .dma s _))))))
end

/-- SHFM is the halfword store of R56 (45 R366). -/
theorem exec_shfm_eq (rsa : Reg) (rsb : SReg) (s : State) : exec (.shfm rsa rsb) s =
    runFmStore s .none [rsa, sw rsb] 56
      (fmAddr (readVal .other s rsa) (readVal .other s (sw rsb))) := rfl

/-- A store of two halfwords whose first source is R36 sticks: its sources are checked first. -/
theorem sticks_std (swap : BitVec 2) (x : Rla) (idx : BitVec 5) (rsb : SReg) (s : State) :
    Sticks (.std swap x 36 idx rsb) s := by
  refine ⟨{ waiting s with stuck := true }, ?_, rfl, rfl⟩
  change execStd swap x 36 idx rsb s = _
  unfold execStd
  exact complete_stuck (seq_error (sourceCheck_r36 .other s ([sw rsb] ++ rlaRegs x)))

theorem sticks_st {swap : BitVec 2} (x : Rla) (idx : BitVec 5) (s : State)
    (hs : swap.getLsbD 1 = false) : Sticks (.st swap x 36 idx) s :=
  sticks_of_complete rfl (seq_ok_left (raiseIf_false hs)
    (seq_error (sourceCheck_r36 .other s (rlaRegs x))))

theorem lmfmCheck_stuck {s : State} {o : LmfmOp} (ha : o.rsa = 36) (hn : o.n ≤ 16)
    (hrd : o.rd.val + o.n ≤ 64) (hz : o.z = true → (zMask o.rd).isSome) :
    lmfmCheck s o = .error .stuck := by
  refine seq_ok_left (raiseIf_false (by simpa using hn)) (seq_ok_left (raiseIf_false
    (by simpa using hrd)) (seq_ok_left (raiseIf_false ?_) (seq_error ?_)))
  · rw [← Option.not_isSome]
    cases h : o.z
    · rfl
    · simp [hz h]
  · rw [ha]
    exact sourceCheck_r36 .other s [sw o.rsb]

/-- Without modulo every condition may be tested. -/
theorem signTest_full (abc : Abc) : SignTest abc 16 := fun _ => rfl

/-- The Control field of a DMA instruction is no reserved setting of its own word (44 R326). -/
theorem controlCheck_ok {s : State} {o : DmaOp}
    (hx : ¬ (o.ibi = true ∧ o.crcx = true ∧ o.crcy = true))
    (hs : s.cfg.strictReserved = true → o.ibi = false → o.bc = 0 ∧ o.crcx = false ∧ o.crcy = false) :
    controlCheck s o = .ok () := by
  refine seq_ok.2 ⟨raiseIf_false ?_, raiseIf_false ?_⟩
  · cases hr : s.cfg.strictReserved
    · rfl
    · cases hi : o.ibi
      · obtain ⟨h1, h2, h3⟩ := hs hr hi
        rw [h1, h2, h3]
        rfl
      · rfl
  · cases hi : o.ibi <;> cases h1 : o.crcx <;> cases h2 : o.crcy <;> simp_all

/-! ### The instructions -/

/-- A stuck SWAN issues nothing, and the turn goes to the other agents (10 R35). -/
theorem step_of_stuck {s : State} (hs : s.stuck = true) (ha : s.agenda = []) (ht : s.turn = .swan) :
    step s = .next { s with turn := .helpers } := by
  unfold step swanTurn
  rw [ha, ht]
  exact if_pos hs

/-- Settles O52: the write by `limd_r36`, the stuck SWAN by `step_of_stuck`, and each instruction by the
lemma of its family. -/
theorem bitBucket : Obligations.BitBucket := by
  unfold Obligations.BitBucket
  refine ⟨fun s v hp h => limd_r36 hp h, fun s => step_of_stuck, ?_, ?_, ?_⟩
  · intro s rd um ae abc cc modx rsb usi si amt
    refine ⟨fun hrd ht => ?_, fun hrd => ?_, fun hrd ht => ?_, fun ht => ⟨fun hrd => ?_, ?_⟩, ?_⟩
    · have h {i : Instr} {l : List Reg} {ae : Bool} {a alu : Half}
          (he : exec i s = runAlu s (arithOp s rd um abc (36 :: l) (modWidth modx) ae a alu none)) :
          Sticks i s := sticks_arith he hrd ht
      exact ⟨sticks_arith rfl hrd ht, sticks_arith rfl hrd ht, h rfl, h rfl, h rfl,
        sticks_arith rfl hrd ht, sticks_arith rfl hrd ht, h rfl,
        sticks_alu rfl (abcCheck_ok ht) (fun e => hrd (Option.some.inj e)) rfl, h rfl, h rfl, h rfl,
        h rfl, h rfl⟩
    · exact ⟨sticks_arith rfl hrd (signTest_full abc), sticks_arith rfl hrd (signTest_full abc),
        sticks_arith rfl hrd (signTest_full abc), sticks_arith rfl hrd (signTest_full abc),
        sticks_arith rfl hrd (signTest_full .none)⟩
    · exact ⟨sticks_extreme rfl hrd ht, sticks_extreme rfl hrd ht⟩
    · exact ⟨sticks_extreme rfl hrd ht, sticks_extreme rfl hrd ht⟩
    · exact ⟨sticks_compare rfl ht, sticks_compare rfl ht, sticks_compare rfl ht,
        sticks_compare rfl ht⟩
    · have h (abc : Abc) : Sticks (.andi 36 false abc 36 si) s :=
        sticks_arith rfl (by decide) (signTest_full abc)
      exact ⟨h .bnz, h .bz⟩
  · intro s rd lnk z hw idx lsbs adr swap reg rla rsb
    refine ⟨?_, ?_, ?_, fun hsw => ?_, fun hadr => ?_, fun hn hrd hz => ?_⟩
    · exact sticks_css (o := ⟨.pushc, [36, sw rsb], 36, rsb, readVal .other s 36⟩) rfl rfl rfl
    · exact sticks_fmStore (exec_shfm_eq 36 rsb s) rfl
    · exact sticks_std swap rla idx rsb s
    · exact sticks_st rla idx s hsw
    · exact sticks_fmStore (l := [sw rsb]) rfl (if_neg (by rw [hadr]; decide))
    · exact sticks_of_complete rfl (seq_error (lmfmCheck_stuck rfl hn hrd hz))
  · intro s bc bc7 rla ibi crcx crcy pod st rsb hx hs
    have h1 : s.cfg.strictReserved = true → ibi = false →
        bc.toNat = 0 ∧ crcx = false ∧ crcy = false := fun e1 e2 => by
      obtain ⟨rfl, -, e⟩ := hs e1 e2
      exact ⟨rfl, e⟩
    have h2 : s.cfg.strictReserved = true → ibi = false →
        bc7.toNat = 0 ∧ crcx = false ∧ crcy = false := fun e1 e2 => by
      obtain ⟨-, rfl, e⟩ := hs e1 e2
      exact ⟨rfl, e⟩
    have h0 : ¬ (ibi = true ∧ false = true ∧ false = true) := fun e => nomatch e.2.1
    refine ⟨sticks_dma rfl rfl (controlCheck_ok hx h1) rfl,
      sticks_dma rfl rfl (controlCheck_ok hx h1) rfl,
      sticks_dma rfl rfl (controlCheck_ok h0 fun e1 e2 => ⟨(h1 e1 e2).1, rfl, rfl⟩) rfl,
      sticks_dma rfl rfl (controlCheck_ok h0 fun e1 e2 => ⟨(h1 e1 e2).1, rfl, rfl⟩) rfl,
      fun hr => ?_⟩
    have hplus : raiseIf (true && (rlaReg rla).isNone) .rlaConstantIncrement = .ok () :=
      raiseIf_false (by rw [← Option.not_isSome, hr]; rfl)
    exact ⟨sticks_dma rfl rfl (controlCheck_ok hx h2) hplus,
      sticks_dma rfl rfl (controlCheck_ok hx h2) hplus,
      sticks_dma rfl rfl (controlCheck_ok h0 fun e1 e2 => ⟨(h2 e1 e2).1, rfl, rfl⟩) hplus,
      sticks_dma rfl rfl (controlCheck_ok h0 fun e1 e2 => ⟨(h2 e1 e2).1, rfl, rfl⟩) hplus⟩

end Sys2Proof.Machine
end

section
/-!
PROOFS. The Connection ID table address of a slot as the bits of a byte address (20 R106).
-/
namespace Sys2Proof.Machine

/-- Bits put in front of `n` others weigh `2 ^ n` times as much. -/
theorem toNat_append_eq_add {m n : Nat} (x : BitVec m) (y : BitVec n) :
    (x ++ y).toNat = x.toNat * 2 ^ n + y.toNat := by
  rw [BitVec.toNat_append, ← Nat.shiftLeft_add_eq_or_of_lt y.isLt, Nat.shiftLeft_eq]

/-- Settles O25: the three fields of the address weigh 0x8000, 2 and 1. -/
theorem connectionAddress : Obligations.ConnectionAddress := by
  unfold Obligations.ConnectionAddress
  intro s slot
  have hfields (block : BitVec 4) : (block ++ slot ++ (0 : BitVec 1) : BitVec 19).toNat =
      block.toNat * 0x8000 + 2 * slot.toNat := by
    calc (block ++ slot ++ (0 : BitVec 1)).toNat
        = (block.toNat * 2 ^ 14 + slot.toNat) * 2 ^ 1 + 0 := by
          rw [toNat_append_eq_add, toNat_append_eq_add]; rfl
      _ = block.toNat * 0x8000 + 2 * slot.toNat := by omega
  have hblock := (s.regs[60].extractLsb' 8 4).isLt
  have hslot := slot.isLt
  refine ⟨(hfields _).symm, ?_, ?_⟩
  · rw [hfields]; omega
  · rw [hfields]; omega

end Sys2Proof.Machine
end

section
/-!
PROOFS. Every step keeps every sparse memory in its canonical form (20 R100): a step changes a memory only
by writes, erasures and the emptying of the Scoreboard, and each of them keeps the form.
-/
namespace Sys2Proof.Machine

/-! ### The form looks at eight fields -/

section
variable {s : State} (h : MemoryForm s)
include h

theorem MemoryForm.with_fm {m : Sparse Byte} (hm : Memory.wf s.fm → Memory.wf m) :
    MemoryForm { s with fm := m } := by
  obtain ⟨hfm, hrest⟩ := h
  exact ⟨hm hfm, hrest⟩

theorem MemoryForm.with_cb {m : Sparse Byte} (hm : Memory.wf s.cb → Memory.wf m) :
    MemoryForm { s with cb := m } := by
  obtain ⟨hfm, hcb, hrest⟩ := h
  exact ⟨hfm, hm hcb, hrest⟩

theorem MemoryForm.with_sb {m : Sparse Bool} (hm : Memory.wf s.sb → Memory.wf m) :
    MemoryForm { s with sb := m } := by
  obtain ⟨hfm, hcb, hsb, hrest⟩ := h
  exact ⟨hfm, hcb, hm hsb, hrest⟩

theorem MemoryForm.with_p1 {m : Sparse Byte} (hm : Memory.wf s.p1 → Memory.wf m) :
    MemoryForm { s with p1 := m } := by
  obtain ⟨hfm, hcb, hsb, hp1, hrest⟩ := h
  exact ⟨hfm, hcb, hsb, hm hp1, hrest⟩

theorem MemoryForm.with_p2b {m : Sparse Byte} (hm : Memory.wf s.p2b → Memory.wf m) :
    MemoryForm { s with p2b := m } := by
  obtain ⟨hfm, hcb, hsb, hp1, hp2b, hrest⟩ := h
  exact ⟨hfm, hcb, hsb, hp1, hm hp2b, hrest⟩

theorem MemoryForm.with_p2n {m : Sparse Byte} (hm : Memory.wf s.p2n → Memory.wf m) :
    MemoryForm { s with p2n := m } := by
  obtain ⟨hfm, hcb, hsb, hp1, hp2b, hp2n, hrest⟩ := h
  exact ⟨hfm, hcb, hsb, hp1, hp2b, hm hp2n, hrest⟩

theorem MemoryForm.with_icPages {m : Sparse Nat} (hm : Memory.wf s.icPages → Memory.wf m) :
    MemoryForm { s with icPages := m } := by
  obtain ⟨hfm, hcb, hsb, hp1, hp2b, hp2n, hpages, hwords⟩ := h
  exact ⟨hfm, hcb, hsb, hp1, hp2b, hp2n, hm hpages, hwords⟩

theorem MemoryForm.with_icWords {m : Sparse Bool} (hm : Memory.wf s.icWords → Memory.wf m) :
    MemoryForm { s with icWords := m } := by
  obtain ⟨hfm, hcb, hsb, hp1, hp2b, hp2n, hpages, hwords⟩ := h
  exact ⟨hfm, hcb, hsb, hp1, hp2b, hp2n, hpages, hm hwords⟩

/-! ### The shared updates -/

/-- A register write leaves the memories alone, but for a CSS reset, which empties the Scoreboard (43
R299). -/
theorem MemoryForm.writeReg (w : State) (r : Reg) (v : Half) : MemoryForm (writeReg w s r v) := by
  have hsb : Memory.wf s.sb → Memory.wf (Machine.writeReg w s r v).sb := by
    intro hs
    rcases writeReg_sb w s r v with e | e
    · exact e ▸ hs
    · exact e ▸ .nil
  simpa [MemoryForm] using h.with_sb hsb

/-- A posted write marks at most one word of the cache history (20 R125). -/
theorem MemoryForm.postWrite (a : Nat) (v : Half) : MemoryForm (postWrite s a v) := by
  unfold Machine.postWrite touchWord
  split
  · exact h.with_icWords (Memory.write_wf _ _)
  · exact h

/-- A fetch enters its page and its word into the cache history, unless it bypasses the cache (20 R125). -/
theorem MemoryForm.recordFetch (w : BitVec 17) : MemoryForm (recordFetch s w) := by
  have hfetch := (h.with_icPages (Memory.write_wf (cacheTag w) (cachePage w))).with_icWords
    (Memory.write_wf w.toNat (fetchRace s w && ! s.cfg.fmRawForwarding))
  unfold Machine.recordFetch
  split
  · exact h
  · exact hfetch

/-! ### The instructions -/

/-- An ALU instruction writes at most its destination, and posts at most its write-back. -/
theorem MemoryForm.aluNext (o : AluOp) : MemoryForm (aluNext s o) := by
  have hmid : MemoryForm (aluMid s o) := by simpa [MemoryForm] using h
  have hwrite : MemoryForm (aluWrite s (aluMid s o) o) := by
    unfold aluWrite
    split
    · rename_i r _
      have hdest := hmid.writeReg s r o.res
      dsimp only
      split
      · exact hdest.postWrite _ o.res
      · exact hdest
    · exact hmid
  rw [aluNext_eq]
  simpa [MemoryForm] using hwrite

/-- A Branch instruction fetches at most the word it nullifies (log 18). -/
theorem MemoryForm.branchNext (link : Bool) (x : Target) (e : Fin 16) (sense c : Bool) (cso : Cso) :
    MemoryForm (branchNext s link x e sense c cso) := by
  have d := branchNext_done s link x e sense c cso
  obtain ⟨hpages, hwords⟩ := d.cache
  rw [d.rest, hpages, hwords]
  cases nullified (e == 15) (branchTaken s e sense) c
  · exact h
  · exact h.recordFetch (s.pc + 1)

/-- Every instruction keeps the memories in form: it posts its stores and leaves the bytes alone. -/
theorem exec_keeps_memoryForm {i : Instr} {t : State} (e : exec i s = .next t) : MemoryForm t := by
  cases exec_form e with
  | waits e => exact e ▸ h
  | sticks e => exact e ▸ h
  | alu o hc e => exact e ▸ h.aluNext o
  | branch link x ess sense c cso hc e => exact e ▸ h.branchNext link x ess sense c cso
  | css o hc e => subst e; simpa [MemoryForm, cssNext] using h
  | dma o hc e => subst e; simpa [MemoryForm, dmaNext] using h
  | fmStore hold regs src a hc e =>
    subst e
    have hpassed : MemoryForm (readEffects (tick s { acc := accessed s (regs ++ [src]) [] ++ [42] })
        regs) := by simpa [MemoryForm] using h
    simpa [MemoryForm, fmStoreNext] using hpassed.postWrite a.toNat (readVal .other s src)
  | lmfm o hc e => rw [e, (lmfmNext_issued s o).rest]; exact h
  | load d srcs o ho e => rw [e, (lsuNext_issued s d srcs o).rest]; exact h
  | store d srcs o hc ho e => rw [e, (lsuNext_issued s d srcs o).rest]; exact h

/-! ### The agents -/

/-- A delivery of the Fast Memory controller writes its register, and R58 for a linked job (45 R360). -/
theorem fmcLoadStep_memoryForm {t : State} (e : fmcLoadStep s = .ok t) : MemoryForm t := by
  unfold fmcLoadStep at e
  split at e
  · cases e
  · rename_i j rest _
    split at e
    · cases e
    · rename_i v _
      obtain ⟨-, e⟩ := seq_ok.1 e
      have hw := h.writeReg s (Fin.ofNat 64 (j.rd.val + j.k)) v
      cases e
      cases j.lnk && j.k == 0
      · exact hw
      · simpa [MemoryForm] using hw

theorem fmcDrainStep_memoryForm {t : State} (e : fmcDrainStep s = .ok t) : MemoryForm t := by
  unfold fmcDrainStep at e
  split at e
  · cases e
  · split at e
    · cases e
    · cases e
      exact h.with_fm (writeHalf_wf _ _)

/-- A load of the internal RAM changes what its register write changes (46 R395). -/
theorem landAt_memoryForm {u : State} {t : Half} {r : Reg} {swap : Bool}
    (e : landAt s t r swap = .ok u) : MemoryForm u := by
  unfold landAt at e
  split at e
  · cases e
  · obtain ⟨-, e⟩ := seq_ok.1 e
    cases e
    exact h.writeReg s r _

/-- A store of the internal RAM writes a Scoreboard entry or a Cell Buffer halfword (46 R398). -/
theorem MemoryForm.localWrite (t v : Half) : MemoryForm (localWrite s t v) := by
  unfold Machine.localWrite
  split
  · exact h.with_sb (sbWrite_wf _ _ _)
  · exact h.with_cb (writeHalf_wf _ _)

theorem MemoryForm.cbWrite (t v : Half) : MemoryForm (cbWrite s t v) :=
  h.with_cb (writeHalf_wf _ _)

theorem MemoryForm.cbForget (t : Half) : MemoryForm (cbForget s t) :=
  h.with_cb fun hcb => Memory.erase_wf _ (Memory.erase_wf _ hcb)

theorem MemoryForm.popSlot (t : Nat) : MemoryForm (popSlot s t) :=
  h.with_sb (Memory.write_wf _ _)

theorem MemoryForm.reserveSlot (n : Nat) : MemoryForm (reserveSlot s n) :=
  h.with_sb (Memory.write_wf _ _)

theorem lsuAccess_memoryForm {u : State} {o : LsuOp} {left : List LsuOp}
    (e : lsuAccess s o = .ok (u, left)) : MemoryForm u := by
  unfold lsuAccess at e
  split at e
  case h_1 t rd swap =>
    obtain ⟨v, hv, e⟩ := bind_ok.1 e
    cases e
    exact landAt_memoryForm h hv
  case h_2 t ra rb swap =>
    obtain ⟨v, hv, e⟩ := bind_ok.1 e
    have hfirst := landAt_memoryForm h hv
    split at e
    · obtain ⟨w, hw, e⟩ := bind_ok.1 e
      cases e
      exact landAt_memoryForm hfirst hw
    · cases e
      exact hfirst
  case h_3 t _ rb swap =>
    obtain ⟨v, hv, e⟩ := bind_ok.1 e
    cases e
    exact landAt_memoryForm h hv
  case h_4 t v =>
    cases e
    exact h.localWrite t v
  case h_5 t x y =>
    split at e
    · cases e
      exact (h.localWrite t x).localWrite (partner t) y
    · cases e
      exact h.localWrite t x
  case h_6 t _ y =>
    cases e
    exact h.localWrite (partner t) y

theorem lsuStep_memoryForm {t : State} (e : lsuStep s = .ok t) : MemoryForm t := by
  unfold lsuStep at e
  split at e
  · cases e
  · obtain ⟨⟨u, left⟩, ha, e⟩ := bind_ok.1 e
    have hu : MemoryForm u := lsuAccess_memoryForm h ha
    cases e
    exact hu

/-- A Cell Scheduling operation writes at most one Scoreboard bit and posts at most one Connection ID (43
R295 to R298). -/
theorem cssPerform_memoryForm {t : State} {o : CssOp}
    (e : cssPerform s o = .ok t) : MemoryForm t := by
  unfold cssPerform at e
  split at e
  case h_1 =>
    obtain ⟨-, e⟩ := seq_ok.1 e
    cases e
    exact h.popSlot _
  case h_2 =>
    cases e
    exact h.popSlot _
  case h_3 =>
    obtain ⟨r, -, e⟩ := bind_ok.1 e
    split at e
    · cases e
      exact h
    · obtain ⟨-, e⟩ := seq_ok.1 e
      obtain ⟨-, e⟩ := seq_ok.1 e
      cases e
      exact (h.reserveSlot _).postWrite _ _
  case h_4 =>
    obtain ⟨r, -, e⟩ := bind_ok.1 e
    split at e
    · cases e
      exact h
    · cases e
      exact h.reserveSlot _

theorem cssStep_memoryForm {t : State} (e : cssStep s = .ok t) : MemoryForm t := by
  unfold cssStep at e
  split at e
  · cases e
  · rename_i o rest _
    exact cssPerform_memoryForm (s := { s with cssq := rest, draws := s.draws + 1 }) h e

/-- The directive at the end of a DMA command counts a cell (44 R337). -/
theorem podApply_memoryForm {t : State} {c : DmaCmd} (e : podApply s c = .ok t) : MemoryForm t := by
  unfold podApply at e
  split at e
  · split at e
    · split at e
      · cases e
      · cases e
        exact h
    · split at e
      · cases e
      · cases e
        exact h
  · cases e
    exact h

theorem MemoryForm.crcDone (c : DmaCmd) : MemoryForm (crcDone s c) := by
  unfold Machine.crcDone setCrcPair
  split <;> exact h

/-- A Port1 read writes one Cell Buffer halfword, or makes it unwritten (44 R336). -/
theorem MemoryForm.dma1ReadMove (c : DmaCmd) : MemoryForm (dma1ReadMove s c).1 := by
  unfold Machine.dma1ReadMove
  dsimp only
  split
  · exact h.cbWrite _ _
  · split
    · exact h.cbForget _
    · exact h.cbWrite _ _

theorem dma1Move_memoryForm {t : State} {c d : DmaCmd}
    (e : dma1Move s c = .ok (t, d)) : MemoryForm t := by
  unfold dma1Move at e
  split at e
  · unfold dma1WriteMove at e
    split at e
    · cases e
    · cases e
      split
      · exact h
      · exact h.with_p1 (writeHalf_wf _ _)
  · split at e
    · cases e
      exact h.cbWrite _ _
    · obtain rfl : (dma1ReadMove s c).1 = t := congrArg Prod.fst (Except.ok.inj e)
      exact h.dma1ReadMove c

theorem dma1Step_memoryForm {t : State} (e : dma1Step s = .ok t) : MemoryForm t := by
  unfold dma1Step at e
  split at e
  · cases e
  · split at e
    · cases e
      exact h
    · split at e
      · obtain ⟨⟨u, d⟩, hm, e⟩ := bind_ok.1 e
        have hu : MemoryForm u := dma1Move_memoryForm h hm
        cases e
        exact hu
      · obtain ⟨u, hp, e⟩ := bind_ok.1 e
        have hu : MemoryForm u := podApply_memoryForm (h.crcDone _) hp
        cases e
        exact hu

/-- A halfword goes to the Port2 space of its command (51 R464). -/
theorem MemoryForm.setPort2 (c : DmaCmd) (a : Nat) (v : Half) :
    MemoryForm (setPort2 s c (writeHalf (port2Space s c) a v)) := by
  unfold Machine.setPort2 port2Space
  split
  · exact h.with_p2b (writeHalf_wf _ _)
  · exact h.with_p2n (writeHalf_wf _ _)

theorem dma2Move_memoryForm {t : State} {c d : DmaCmd}
    (e : dma2Move s c = .ok (t, d)) : MemoryForm t := by
  unfold dma2Move at e
  split at e
  · split at e
    · cases e
    · cases e
      exact h.setPort2 c _ _
  · cases e
    exact h.cbWrite _ _

theorem dma2Step_memoryForm {t : State} (e : dma2Step s = .ok t) : MemoryForm t := by
  unfold dma2Step at e
  split at e
  · cases e
  · split at e
    · cases e
      exact h
    · split at e
      · obtain ⟨⟨u, d⟩, hm, e⟩ := bind_ok.1 e
        have hu : MemoryForm u := dma2Move_memoryForm h hm
        cases e
        exact hu
      · obtain ⟨u, hp, e⟩ := bind_ok.1 e
        have hu : MemoryForm u := podApply_memoryForm h hp
        cases e
        exact hu

theorem abortStep_memoryForm {t : State} (e : abortStep s = .ok t) : MemoryForm t := by
  unfold abortStep at e
  split at e
  · cases e
  · split at e
    · cases e
      exact h
    · cases e

theorem p1PokeStep_memoryForm {t : State} {a : Nat} {b : Byte}
    (e : p1PokeStep s a b = .ok t) : MemoryForm t := by
  unfold p1PokeStep at e
  split at e
  · cases e
    exact h.with_p1 (Memory.write_wf _ _)
  · cases e

theorem p2PokeStep_memoryForm {t : State} {burst : Bool} {a : Nat} {b : Byte}
    (e : p2PokeStep s burst a b = .ok t) : MemoryForm t := by
  unfold p2PokeStep at e
  split at e
  · split at e
    · cases e
      exact h.with_p2b (Memory.write_wf _ _)
    · cases e
  · split at e
    · cases e
      exact h.with_p2n (Memory.write_wf _ _)
    · cases e

theorem rxAccept_memoryForm {t : State} {phy : BitVec 5} {octets : List Byte}
    (e : rxAccept s phy octets = .ok t) : MemoryForm t := by
  unfold rxAccept at e
  split at e
  · cases e
    exact h
  · cases e

/-- The receiver writes one halfword of its holder a step: of the cell, or the status word (50 R427). -/
theorem rxStep_memoryForm {t : State} (e : rxStep s = .ok t) : MemoryForm t := by
  unfold rxStep at e
  split at e
  · cases e
  · split at e
    · obtain ⟨v, -, e⟩ := bind_ok.1 e
      cases e
      exact h.with_cb (writeHalf_wf _ _)
    · obtain ⟨-, e⟩ := seq_ok.1 e
      obtain ⟨-, e⟩ := seq_ok.1 e
      cases e
      exact h.with_cb (writeHalf_wf _ _)

theorem txStart_memoryForm {t : State} {phy : BitVec 5}
    (e : txStart s phy = .ok t) : MemoryForm t := by
  unfold txStart at e
  dsimp only at e
  split at e
  · obtain ⟨-, e⟩ := seq_ok.1 e
    cases e
    exact h
  · cases e

/-- The transmitter only reads its holder (50 R430). -/
theorem txStep_memoryForm {t : State} (e : txStep s = .ok t) : MemoryForm t := by
  unfold txStep at e
  split at e
  · cases e
  · split at e
    · unfold txFetch at e
      split at e
      · cases e
      · cases e
        exact h
    · obtain ⟨-, e⟩ := seq_ok.1 e
      cases e
      exact h

theorem MemoryForm.pitUse (k : Fin 2) : MemoryForm (pitUse s k) := by
  unfold Machine.pitUse
  split
  · exact h
  · split <;> exact h

theorem MemoryForm.setPitCount (k : Fin 2) (c : Half) : MemoryForm (setPitCount s k c) := by
  unfold Machine.setPitCount
  split <;> exact h

theorem MemoryForm.setEvent (b : Nat) (on : Bool) : MemoryForm (setEvent s b on) := by
  unfold Machine.setEvent
  split <;> exact h

/-- A tick of a timer changes its count, its event bit and its edges (60 R531). -/
theorem pitStep_memoryForm {t : State} {k : Fin 2} (e : pitStep s k = .ok t) : MemoryForm t := by
  unfold pitStep at e
  split at e
  · split at e
    · cases e
    · cases e
      exact ((h.pitUse k).setPitCount k _).setEvent _ _
  · cases e

/-- Every move of an agent keeps the memories in form. -/
theorem perform_keeps_memoryForm {m : Move} {t : State} (e : perform s m = .ok t) :
    MemoryForm t := by
  cases m with
  | swan => cases e
  | fmcLoad => exact fmcLoadStep_memoryForm h e
  | fmcDrain => exact fmcDrainStep_memoryForm h e
  | lsu => exact lsuStep_memoryForm h e
  | css => exact cssStep_memoryForm h e
  | dma1 => exact dma1Step_memoryForm h e
  | dma2 => exact dma2Step_memoryForm h e
  | p1Abort => exact abortStep_memoryForm h e
  | p1Poke a b => exact p1PokeStep_memoryForm h e
  | p2Poke burst a b => exact p2PokeStep_memoryForm h e
  | rxOffer phy octets => exact rxAccept_memoryForm h e
  | rx => exact rxStep_memoryForm h e
  | txReady phy => exact txStart_memoryForm h e
  | tx => exact txStep_memoryForm h e
  | pit k => exact pitStep_memoryForm h e
  | icsi pins => cases e; exact h
  | icsLatch => cases e; exact h
  | comminWrite v => cases e; exact h
  | commoutRead => cases e; exact h
end

/-- Settles O57: the fetch, every instruction and every agent keep the form. -/
theorem stepKeepsMemoryForm : Obligations.StepKeepsMemoryForm := by
  unfold Obligations.StepKeepsMemoryForm
  intro s t h e
  exact step_keeps (P := MemoryForm) (fun s h => h.recordFetch s.pc)
    (fun _ _ _ h => exec_keeps_memoryForm h) (fun _ _ _ h => perform_keeps_memoryForm h)
    (fun _ _ _ _ _ h => h) h e

end Sys2Proof.Machine
end

section
/-!
PROOFS. The fields of an instruction word as numbers (30 R140 to R166): how fields that stand side by side
make one field, the codes of a field, and what the fields of each format read as in an encoded word.
-/
namespace Sys2Proof
open Sys2Proof.Laws.EncodeFits

/-! ### One field -/

theorem bitAt_eq {w k : Nat} {b : Bool} (h : w / 2 ^ k % 2 = cond b 1 0) : bitAt w k = b := by
  cases b <;> simp_all [bitAt]

theorem cond_le_one (b : Bool) : cond b 1 0 ≤ 1 := by cases b <;> decide

theorem bitAt_eq_true {w k : Nat} : bitAt w k = true ↔ w / 2 ^ k % 2 = 1 := beq_iff_eq

theorem bitAt_eq_false {w k : Nat} : bitAt w k = false ↔ w / 2 ^ k % 2 = 0 := by
  rw [← Bool.not_eq_true, bitAt_eq_true]; omega

theorem regAt_eq {n : Nat} {r : Reg} (h : n = r.val) : regAt n = r :=
  Fin.ext (by rw [h]; exact Nat.mod_eq_of_lt r.isLt)

theorem sregAt_eq {n : Nat} {r : SReg} (h : n = r.val) : sregAt n = r :=
  Fin.ext (by rw [h]; exact Nat.mod_eq_of_lt r.isLt)

theorem finOfNat_eq {n : Nat} {e : Fin 16} (h : n = e.val) : Fin.ofNat 16 n = e :=
  Fin.ext (by rw [h]; exact Nat.mod_eq_of_lt e.isLt)

theorem ofNat_eq {k n : Nat} {v : BitVec k} (h : n = v.toNat) : BitVec.ofNat k n = v := by
  rw [h, BitVec.ofNat_toNat, BitVec.setWidth_eq]

/-! ### Fields side by side -/

theorem fld_lt (w hi lo : Nat) : fld w hi lo < 2 ^ (hi + 1 - lo) := Nat.mod_lt _ (Nat.two_pow_pos _)

theorem fld_bit (w k : Nat) : fld w k k = w / 2 ^ k % 2 := by simp [fld]

/-- Two fields side by side are one field. -/
theorem fld_join (w hi cut mid lo : Nat)
    (hcut : decide (cut = mid + 1 ∧ lo ≤ mid ∧ mid ≤ hi) = true) :
    fld w hi lo = fld w hi cut * 2 ^ (cut - lo) + fld w mid lo := by
  obtain ⟨rfl, hlo, hhi⟩ := of_decide_eq_true hcut
  have hbase : 2 ^ (mid + 1) = 2 ^ lo * 2 ^ (mid + 1 - lo) := by rw [← pow_add]; congr 1; omega
  have hwidth : 2 ^ (hi + 1 - lo) = 2 ^ (mid + 1 - lo) * 2 ^ (hi + 1 - (mid + 1)) := by
    rw [← pow_add]; congr 1; omega
  unfold fld
  rw [hwidth, Nat.mod_mul, Nat.div_div_eq_div_mul, ← hbase]
  ring

theorem fld_word {w : Nat} (hw : w < 2 ^ 32) : fld w 31 0 = w := by simp [fld]; omega

theorem bitN_bitAt (w k : Nat) : bitN (bitAt w k) k = fld w k k * 2 ^ k := by
  rcases Nat.mod_two_eq_zero_or_one (w / 2 ^ k) with h | h <;> simp [bitN, bitAt, fld_bit, h]

theorem regAt_val {n : Nat} (h : n < 2 ^ 6) : (regAt n).val = n := Nat.mod_eq_of_lt h

theorem sregAt_val {n : Nat} (h : n < 2 ^ 5) : (sregAt n).val = n := Nat.mod_eq_of_lt h

theorem finOfNat_val {n : Nat} (h : n < 2 ^ 4) : (Fin.ofNat 16 n).val = n := Nat.mod_eq_of_lt h

theorem toNat_ofNat_fld (w hi lo : Nat) :
    (BitVec.ofNat (hi + 1 - lo) (fld w hi lo)).toNat = fld w hi lo := by
  rw [BitVec.toNat_ofNat, Nat.mod_eq_of_lt (fld_lt ..)]

theorem fld_of_bitAt_false {w k : Nat} (h : bitAt w k = false) : fld w k k = 0 := by
  rw [fld_bit, bitAt_eq_false.1 h]

theorem fld_of_bitAt_true {w k : Nat} (h : bitAt w k = true) : fld w k k = 1 := by
  rw [fld_bit, bitAt_eq_true.1 h]

theorem bitAt_true_of_fld {w k : Nat} (h : fld w k k = 1) : bitAt w k = true := by
  rw [bitAt_eq_true, ← fld_bit, h]

theorem bitAt_false_of_fld {w k : Nat} (h : fld w k k = 0) : bitAt w k = false := by
  rw [bitAt_eq_false, ← fld_bit, h]

/-! ### Field codes (R152, R154, R159) -/

theorem abcOfCode_abcCode (a : Abc) : abcOfCode (abcCode a) = some a := by cases a <;> rfl

theorem abcCode_of_abcOfCode {n : Nat} {a : Abc} (h : abcOfCode n = some a) : abcCode a = n := by
  unfold abcOfCode at h
  split at h <;> cases h <;> rfl

theorem csoOfCode_csoCode (c : Cso) : csoOfCode (csoCode c) = some c := by cases c <;> rfl

theorem csoCode_of_csoOfCode {n : Nat} {c : Cso} (h : csoOfCode n = some c) : csoCode c = n := by
  unfold csoOfCode at h
  split at h <;> cases h <;> rfl

theorem rlaOfCode_rlaCode (x : Rla) : rlaOfCode (rlaCode x) = x := by cases x <;> rfl

theorem rlaOfCode_eq {n : Nat} {x : Rla} (h : n = rlaCode x) : rlaOfCode n = x := by
  rw [h, rlaOfCode_rlaCode]

theorem rlaCode_rlaOfCode {n : Nat} (h : n < 8) : rlaCode (rlaOfCode n) = n := by
  interval_cases n <;> rfl

theorem rlaCode_fld (w : Nat) : rlaCode (rlaOfCode (fld w 18 16)) = fld w 18 16 :=
  rlaCode_rlaOfCode (Nat.mod_lt _ (by decide))

/-- In DMA Plus mode the byte count of a form without "+" has no bit 7 (R162). -/
theorem count_wf {plus : Bool} {n : Nat} :
    (! plus || decide (n < 128)) = true ↔ (plus = true → n < 128) := by
  cases plus <;> simp

/-! ### The head of a compare word (R147) -/

/-- A head whose bits [24:19] are 0 is that of an ALU word with `rd` 0 or 32: bit 25 is CMPP's. -/
theorem compare_head {w : Nat} (h : fld w 24 19 = 0) :
    regAt (fld w 25 20) = cond (bitAt w 25) 32 0 ∧ bitAt w 19 = false := by
  have hlow := fld_join w 25 20 19 19 rfl
  have hhigh := fld_join w 25 25 24 19 rfl
  have hum := fld_lt w 19 19
  refine ⟨?_, bitAt_false_of_fld (by omega)⟩
  cases hb : bitAt w 25 with
  | false =>
    have := fld_of_bitAt_false hb
    have hz : fld w 25 20 = 0 := by omega
    exact regAt_eq hz
  | true =>
    have := fld_of_bitAt_true hb
    have h32 : fld w 25 20 = 32 := by omega
    exact regAt_eq h32

/-- The same from the other side. -/
theorem fixed_of_compare_head {w : Nat} {previous : Bool}
    (hrd : regAt (fld w 25 20) = cond previous 32 0) (hum : bitAt w 19 = false) :
    fld w 24 19 = 0 ∧ bitAt w 25 = previous := by
  have hval := congrArg Fin.val hrd
  rw [regAt_val (fld_lt w 25 20)] at hval
  have := fld_of_bitAt_false hum
  have := fld_join w 25 25 24 20 rfl
  have := fld_join w 24 20 19 19 rfl
  have := fld_lt w 24 20
  cases previous with
  | false =>
    have hz : fld w 25 20 = 0 := hval
    exact ⟨by omega, bitAt_false_of_fld (by omega)⟩
  | true =>
    have hz : fld w 25 20 = 32 := hval
    exact ⟨by omega, bitAt_true_of_fld (by omega)⟩

/-! ### What the fields of an encoded word read as -/

section
variable {op : Nat} (hop : op < 64) (rd : Reg) (um : Bool) {abc : Nat} (habc : abc < 8) (rsa : Reg)
include hop habc

theorem fields_encAlu3 (m : BitVec 4) (ae : Bool) (rsb : SReg) :
    let w := encAlu3 op rd um abc rsa m ae rsb
    fld w 31 26 = op ∧ regAt (fld w 25 20) = rd ∧ bitAt w 19 = um ∧ fld w 18 16 = abc ∧
      regAt (fld w 15 10) = rsa ∧ fld w 9 6 = m.toNat ∧ bitAt w 5 = ae ∧ fld w 4 0 = rsb.val := by
  have := cond_le_one um
  have := cond_le_one ae
  have := m.isLt
  refine ⟨?_, regAt_eq ?_, bitAt_eq ?_, ?_, regAt_eq ?_, ?_, bitAt_eq ?_, ?_⟩
  all_goals
    simp only [fld, encAlu3, aluHead, bitN]
    omega

theorem fields_encAluI6 (m : BitVec 4) (usi : BitVec 6) :
    let w := aluHead op rd um abc rsa + m.toNat * 2 ^ 6 + usi.toNat
    fld w 31 26 = op ∧ regAt (fld w 25 20) = rd ∧ bitAt w 19 = um ∧ fld w 18 16 = abc ∧
      regAt (fld w 15 10) = rsa ∧ BitVec.ofNat 4 (fld w 9 6) = m ∧
      BitVec.ofNat 6 (fld w 5 0) = usi := by
  have := cond_le_one um
  have := m.isLt
  have := usi.isLt
  refine ⟨?_, regAt_eq ?_, bitAt_eq ?_, ?_, regAt_eq ?_, ofNat_eq ?_, ofNat_eq ?_⟩
  all_goals
    simp only [fld, aluHead, bitN]
    omega

theorem fields_encAluI10 (si : BitVec 10) :
    let w := encAluI10 op rd um abc rsa si
    fld w 31 26 = op ∧ regAt (fld w 25 20) = rd ∧ bitAt w 19 = um ∧ fld w 18 16 = abc ∧
      regAt (fld w 15 10) = rsa ∧ BitVec.ofNat 10 (fld w 9 0) = si := by
  have := cond_le_one um
  have := si.isLt
  refine ⟨?_, regAt_eq ?_, bitAt_eq ?_, ?_, regAt_eq ?_, ofNat_eq ?_⟩
  all_goals
    simp only [fld, encAluI10, aluHead, bitN]
    omega

theorem fields_encSftI (m : BitVec 4) (ae top : Bool) (amt : BitVec 4) :
    let w := encSftI op rd um abc rsa m ae top amt
    fld w 31 26 = op ∧ regAt (fld w 25 20) = rd ∧ bitAt w 19 = um ∧ fld w 18 16 = abc ∧
      regAt (fld w 15 10) = rsa ∧ BitVec.ofNat 4 (fld w 9 6) = m ∧ bitAt w 5 = ae ∧
      bitAt w 4 = top ∧ BitVec.ofNat 4 (fld w 3 0) = amt := by
  have := cond_le_one um
  have := cond_le_one ae
  have := cond_le_one top
  have := m.isLt
  have := amt.isLt
  refine ⟨?_, regAt_eq ?_, bitAt_eq ?_, ?_, regAt_eq ?_, ofNat_eq ?_, bitAt_eq ?_, bitAt_eq ?_,
    ofNat_eq ?_⟩
  all_goals
    simp only [fld, encSftI, aluHead, bitN]
    omega
end

theorem fields_limd (rd : Reg) (um : Bool) (li : BitVec 16) :
    let w := encodeNat (.limd rd um li)
    fld w 31 26 = 0b111111 ∧ regAt (fld w 25 20) = rd ∧ bitAt w 19 = um ∧ fld w 18 16 = 0 ∧
      BitVec.ofNat 16 (fld w 15 0) = li := by
  have := cond_le_one um
  have := li.isLt
  refine ⟨?_, regAt_eq ?_, bitAt_eq ?_, ?_, ofNat_eq ?_⟩
  all_goals
    simp only [fld, encodeNat, bitN]
    omega

theorem fields_encBranch {op : Nat} (hop : op < 64) (ess : Fin 16) (sense c : Bool) (cso : Cso)
    {wadr : Nat} (hwadr : wadr < 2 ^ 12) :
    let w := encBranch op ess sense c cso wadr
    fld w 31 26 = op ∧ Fin.ofNat 16 (fld w 25 22) = ess ∧ bitAt w 21 = sense ∧ bitAt w 20 = c ∧
      fld w 19 12 = csoCode cso ∧ fld w 11 0 = wadr := by
  have := cond_le_one sense
  have := cond_le_one c
  have := csoCode_le cso
  refine ⟨?_, finOfNat_eq ?_, bitAt_eq ?_, bitAt_eq ?_, ?_, ?_⟩
  all_goals
    simp only [fld, encBranch, bitN]
    omega

theorem fields_encDma {op bc : Nat} (hop : op < 32) (hbc : bc < 256) (rla : Rla) (rsa : Reg)
    (ibi x y pod st : Bool) (rsb : SReg) :
    let w := encDma op bc rla rsa ibi x y pod st rsb
    fld w 31 26 = 2 * op + bc / 128 ∧ bitAt w 26 = decide (128 ≤ bc) ∧ fld w 26 19 = bc ∧
      fld w 25 19 = bc % 128 ∧ rlaOfCode (fld w 18 16) = rla ∧ regAt (fld w 15 10) = rsa ∧
      bitAt w 9 = ibi ∧ bitAt w 8 = x ∧ bitAt w 7 = y ∧ bitAt w 6 = pod ∧ bitAt w 5 = st ∧
      sregAt (fld w 4 0) = rsb := by
  have := rlaCode_le rla
  have := cond_le_one ibi
  have := cond_le_one x
  have := cond_le_one y
  have := cond_le_one pod
  have := cond_le_one st
  have hsplit : (cond (decide (128 ≤ bc)) 1 0 : Nat) = bc / 128 := by
    by_cases h : 128 ≤ bc
    · simp only [h, decide_true, cond_true]; omega
    · simp only [h, decide_false, cond_false]; omega
  refine ⟨?_, bitAt_eq (hsplit ▸ ?_), ?_, ?_, rlaOfCode_eq ?_, regAt_eq ?_, bitAt_eq ?_, bitAt_eq ?_,
    bitAt_eq ?_, bitAt_eq ?_, bitAt_eq ?_, sregAt_eq ?_⟩
  all_goals
    simp only [fld, encDma, bitN]
    omega

theorem fields_push (flag : Bool) (rsa : Reg) (rsb : SReg) :
    let w := 0b001000 * 2 ^ 26 + cond flag 1 0 * 2 ^ 16 + rsa.val * 2 ^ 10 + rsb.val
    fld w 31 26 = 0b001000 ∧ fld w 25 19 = 0 ∧ fld w 18 16 = cond flag 1 0 ∧
      regAt (fld w 15 10) = rsa ∧ fld w 9 5 = 0 ∧ sregAt (fld w 4 0) = rsb := by
  have := cond_le_one flag
  refine ⟨?_, ?_, ?_, regAt_eq ?_, ?_, sregAt_eq ?_⟩
  all_goals
    simp only [fld]
    omega

theorem fields_pop (flag : Bool) (rd : Reg) (rsb : SReg) :
    let w := 0b001001 * 2 ^ 26 + rd.val * 2 ^ 20 + cond flag 1 0 * 2 ^ 16 + rsb.val
    fld w 31 26 = 0b001001 ∧ regAt (fld w 25 20) = rd ∧ bitAt w 19 = false ∧
      fld w 18 16 = cond flag 1 0 ∧ fld w 15 5 = 0 ∧ sregAt (fld w 4 0) = rsb := by
  have := cond_le_one flag
  refine ⟨?_, regAt_eq ?_, bitAt_eq ?_, ?_, ?_, sregAt_eq ?_⟩
  all_goals
    simp only [fld, cond_false]
    omega

theorem fields_lmfm (rd : Reg) (lnk z : Bool) (rsa : Reg) (hw : BitVec 5) (rsb : SReg) :
    let w := encodeNat (.lmfm rd lnk z rsa hw rsb)
    fld w 31 26 = 0b010101 ∧ regAt (fld w 25 20) = rd ∧ bitAt w 19 = lnk ∧ fld w 18 17 = 0 ∧
      bitAt w 16 = z ∧ regAt (fld w 15 10) = rsa ∧ BitVec.ofNat 5 (fld w 9 5) = hw ∧
      sregAt (fld w 4 0) = rsb := by
  have := cond_le_one lnk
  have := cond_le_one z
  have := hw.isLt
  refine ⟨?_, regAt_eq ?_, bitAt_eq ?_, ?_, bitAt_eq ?_, regAt_eq ?_, ofNat_eq ?_, sregAt_eq ?_⟩
  all_goals
    simp only [fld, encodeNat, bitN]
    omega

theorem fields_srh (adr : BitVec 2) (reg : BitVec 3) (rsa : Reg) (lsbs : BitVec 5) (rsb : SReg) :
    let w := encodeNat (.srh adr reg rsa lsbs rsb)
    fld w 31 26 = 0b010111 ∧ fld w 25 21 = 0 ∧ BitVec.ofNat 2 (fld w 20 19) = adr ∧
      BitVec.ofNat 3 (fld w 18 16) = reg ∧ regAt (fld w 15 10) = rsa ∧
      BitVec.ofNat 5 (fld w 9 5) = lsbs ∧ sregAt (fld w 4 0) = rsb := by
  have := adr.isLt
  have := reg.isLt
  have := lsbs.isLt
  refine ⟨?_, ?_, ofNat_eq ?_, ofNat_eq ?_, regAt_eq ?_, ofNat_eq ?_, sregAt_eq ?_⟩
  all_goals
    simp only [fld, encodeNat]
    omega

theorem fields_load {op : Nat} (hop : op < 64) (rd : Reg) (rla : Rla) (swap : BitVec 2)
    (idx : BitVec 5) :
    let w := op * 2 ^ 26 + rd.val * 2 ^ 20 + rlaCode rla * 2 ^ 16 + swap.toNat * 2 ^ 10 +
      idx.toNat * 2 ^ 5
    fld w 31 26 = op ∧ regAt (fld w 25 20) = rd ∧ bitAt w 19 = false ∧
      rlaOfCode (fld w 18 16) = rla ∧ fld w 15 12 = 0 ∧ BitVec.ofNat 2 (fld w 11 10) = swap ∧
      BitVec.ofNat 5 (fld w 9 5) = idx ∧ fld w 4 0 = 0 := by
  have := rlaCode_le rla
  have := swap.isLt
  have := idx.isLt
  refine ⟨?_, regAt_eq ?_, bitAt_eq ?_, rlaOfCode_eq ?_, ?_, ofNat_eq ?_, ofNat_eq ?_, ?_⟩
  all_goals
    simp only [fld, cond_false]
    omega

theorem fields_store {w op rsb : Nat} (hop : op < 64) (hrsb : rsb < 32) (swap : BitVec 2) (rla : Rla)
    (rsa : Reg) (idx : BitVec 5)
    (hw : w = op * 2 ^ 26 + swap.toNat * 2 ^ 20 + rlaCode rla * 2 ^ 16 + rsa.val * 2 ^ 10 +
      idx.toNat * 2 ^ 5 + rsb) :
    fld w 31 26 = op ∧ fld w 25 22 = 0 ∧ BitVec.ofNat 2 (fld w 21 20) = swap ∧
      bitAt w 19 = false ∧ rlaOfCode (fld w 18 16) = rla ∧ regAt (fld w 15 10) = rsa ∧
      BitVec.ofNat 5 (fld w 9 5) = idx ∧ fld w 4 0 = rsb := by
  have := rlaCode_le rla
  have := swap.isLt
  have := idx.isLt
  refine ⟨?_, ?_, ofNat_eq ?_, bitAt_eq ?_, rlaOfCode_eq ?_, regAt_eq ?_, ofNat_eq ?_, ?_⟩
  all_goals
    simp only [fld, cond_false]
    omega

end Sys2Proof
end

section
/-!
PROOFS. With the fixed bits checked, a word is the word of what it decodes to (30 R140 to R169): for each
format, a decoder that answers has looked at every bit of its word.
-/
namespace Sys2Proof
open Sys2Proof.Laws.EncodeFits

/-- `i` is a well-formed instruction that the encoder turns into `w`. -/
def WordOf (plus : Bool) (w : Nat) (i : Instr) : Prop := i.wf plus = true ∧ encodeNat i = w

/-- If `d` answers an instruction, that is one of the word `w`. -/
def Faithful (plus : Bool) (w : Nat) (d : Decoded) : Prop := ∀ i, d = .ok i → WordOf plus w i

theorem WordOf.of_eq {plus : Bool} {v w : Nat} {i : Instr} (h : WordOf plus v i) (e : v = w) :
    WordOf plus w i := e ▸ h

namespace Faithful
variable {plus : Bool} {w : Nat}

theorem of_ok {i : Instr} (h : WordOf plus w i) : Faithful plus w (.ok i) := by
  intro j e
  cases e
  exact h

theorem of_error (e : DecodeError) : Faithful plus w (.error e) := by
  intro i h
  cases h

theorem of_fixed {b : Bool} {d : Decoded} (h : b = true → Faithful plus w d) :
    Faithful plus w (fixed true b d) := by
  cases b with
  | false => exact of_error _
  | true => exact h rfl

theorem of_withAbc {k : Abc → Instr}
    (h : ∀ a, abcCode a = fld w 18 16 → WordOf plus w (k a)) : Faithful plus w (withAbc w k) := by
  unfold withAbc
  split
  · next a ha => exact of_ok (h a (abcCode_of_abcOfCode ha))
  · exact of_error _

theorem of_ite {c : Bool} {d e : Decoded} (hd : c = true → Faithful plus w d)
    (he : c = false → Faithful plus w e) : Faithful plus w (if c then d else e) := by
  cases c with
  | false => exact he rfl
  | true => exact hd rfl

end Faithful

/-! ### A word is built again from its fields -/

section
variable {w : Nat} (hw : w < 2 ^ 32)
include hw

theorem aluHead_of_fields : aluHead (fld w 31 26) (regAt (fld w 25 20)) (bitAt w 19) (fld w 18 16)
    (regAt (fld w 15 10)) + fld w 9 0 = w := by
  rw [aluHead, bitN_bitAt, regAt_val (fld_lt w 25 20), regAt_val (fld_lt w 15 10)]
  have := fld_word hw
  have := fld_join w 31 10 9 0 rfl
  have := fld_join w 31 16 15 10 rfl
  have := fld_join w 31 19 18 16 rfl
  have := fld_join w 31 20 19 19 rfl
  have := fld_join w 31 26 25 20 rfl
  omega

theorem encAlu3_of_fields : encAlu3 (fld w 31 26) (regAt (fld w 25 20)) (bitAt w 19) (fld w 18 16)
    (regAt (fld w 15 10)) (BitVec.ofNat 4 (fld w 9 6)) (bitAt w 5) (sregAt (fld w 4 0)) = w := by
  rw [encAlu3, bitN_bitAt, toNat_ofNat_fld w 9 6, sregAt_val (fld_lt w 4 0)]
  have := aluHead_of_fields hw
  have := fld_join w 9 5 4 0 rfl
  have := fld_join w 9 6 5 5 rfl
  omega

theorem encAluI6_of_fields : aluHead (fld w 31 26) (regAt (fld w 25 20)) (bitAt w 19) (fld w 18 16)
    (regAt (fld w 15 10)) + (BitVec.ofNat 4 (fld w 9 6)).toNat * 2 ^ 6 +
      (BitVec.ofNat 6 (fld w 5 0)).toNat = w := by
  rw [toNat_ofNat_fld w 9 6, toNat_ofNat_fld w 5 0]
  have := aluHead_of_fields hw
  have := fld_join w 9 6 5 0 rfl
  omega

theorem encAluI10_of_fields : encAluI10 (fld w 31 26) (regAt (fld w 25 20)) (bitAt w 19)
    (fld w 18 16) (regAt (fld w 15 10)) (BitVec.ofNat 10 (fld w 9 0)) = w := by
  rw [encAluI10, toNat_ofNat_fld w 9 0, aluHead_of_fields hw]

theorem encSftI_of_fields : encSftI (fld w 31 26) (regAt (fld w 25 20)) (bitAt w 19) (fld w 18 16)
    (regAt (fld w 15 10)) (BitVec.ofNat 4 (fld w 9 6)) (bitAt w 5) (bitAt w 4)
    (BitVec.ofNat 4 (fld w 3 0)) = w := by
  rw [encSftI, bitN_bitAt, bitN_bitAt, toNat_ofNat_fld w 9 6, toNat_ofNat_fld w 3 0]
  have := aluHead_of_fields hw
  have := fld_join w 9 4 3 0 rfl
  have := fld_join w 9 5 4 4 rfl
  have := fld_join w 9 6 5 5 rfl
  omega

theorem encBranch_of_fields {c : Cso} (hc : csoCode c = fld w 19 12) :
    encBranch (fld w 31 26) (Fin.ofNat 16 (fld w 25 22)) (bitAt w 21) (bitAt w 20) c
      (fld w 11 0) = w := by
  rw [encBranch, bitN_bitAt, bitN_bitAt, finOfNat_val (fld_lt w 25 22), hc]
  have := fld_word hw
  have := fld_join w 31 12 11 0 rfl
  have := fld_join w 31 20 19 12 rfl
  have := fld_join w 31 21 20 20 rfl
  have := fld_join w 31 22 21 21 rfl
  have := fld_join w 31 26 25 22 rfl
  omega

theorem encDma_of_fields : encDma (fld w 31 27) (fld w 26 19) (rlaOfCode (fld w 18 16))
    (regAt (fld w 15 10)) (bitAt w 9) (bitAt w 8) (bitAt w 7) (bitAt w 6) (bitAt w 5)
    (sregAt (fld w 4 0)) = w := by
  simp only [encDma, bitN_bitAt]
  rw [regAt_val (fld_lt w 15 10), sregAt_val (fld_lt w 4 0), rlaCode_fld]
  have := fld_word hw
  have := fld_join w 31 5 4 0 rfl
  have := fld_join w 31 6 5 5 rfl
  have := fld_join w 31 7 6 6 rfl
  have := fld_join w 31 8 7 7 rfl
  have := fld_join w 31 9 8 8 rfl
  have := fld_join w 31 10 9 9 rfl
  have := fld_join w 31 16 15 10 rfl
  have := fld_join w 31 19 18 16 rfl
  have := fld_join w 31 27 26 19 rfl
  omega
end

/-! ### Bits that a decoder finds fixed -/

section
variable {w : Nat}

/-- Bits [31:27] of an operation code, which name a DMA instruction (R161). -/
theorem dma_code {op : Nat} (hop : fld w 31 26 = op) : fld w 31 27 = op / 2 := by
  have := fld_join w 31 27 26 26 rfl
  have := fld_lt w 26 26
  omega

/-- A byte count with bit 26 set is that of a "+" form (R162). -/
theorem dma_count_plus (h26 : bitAt w 26 = true) :
    fld w 26 19 = 128 + (BitVec.ofNat 7 (fld w 25 19)).toNat := by
  have := fld_join w 26 26 25 19 rfl
  have := fld_of_bitAt_true h26
  rw [toNat_ofNat_fld w 25 19]
  omega

theorem dma_count_lt (h26 : bitAt w 26 = false) :
    (BitVec.ofNat 8 (fld w 26 19)).toNat < 128 := by
  have := fld_join w 26 26 25 19 rfl
  have := fld_of_bitAt_false h26
  have := fld_lt w 25 19
  rw [toNat_ofNat_fld w 26 19]
  omega

end

/-! ### The words with two names (41 R242 to R245; R164) -/

section
variable {plus : Bool}

theorem andiOrTest_word (rd : Reg) (um : Bool) (a : Abc) (rsa : Reg) (si : BitVec 10) :
    WordOf plus (encAluI10 0b110100 rd um (abcCode a) rsa si) (andiOrTest rd um a rsa si) := by
  unfold andiOrTest
  split_ifs with hset hclr
  · obtain ⟨⟨rfl, rfl⟩, rfl⟩ : (rd = 36 ∧ um = false) ∧ a = .bnz := by simpa using hset
    exact ⟨rfl, rfl⟩
  · obtain ⟨⟨rfl, rfl⟩, rfl⟩ : (rd = 36 ∧ um = false) ∧ a = .bz := by simpa using hclr
    exact ⟨rfl, rfl⟩
  · refine ⟨?_, rfl⟩
    rw [Instr.wf, Bool.and_or_distrib_left, Bool.eq_false_of_not_eq_true hset,
      Bool.eq_false_of_not_eq_true hclr]
    rfl

theorem oriOrMv_word (rd : Reg) (um : Bool) (a : Abc) (rsa : Reg) (si : BitVec 10) :
    WordOf plus (encAluI10 0b110101 rd um (abcCode a) rsa si) (oriOrMv rd um a rsa si) := by
  unfold oriOrMv
  split_ifs with hmv
  · obtain ⟨⟨rfl, rfl⟩, rfl⟩ : (um = false ∧ a = .none) ∧ si = 0 := by simpa using hmv
    exact ⟨rfl, rfl⟩
  · exact ⟨congrArg not (Bool.eq_false_of_not_eq_true hmv), rfl⟩

theorem limdOrNop_word (rd : Reg) (um : Bool) (li : BitVec 16) :
    WordOf plus (encodeNat (.limd rd um li)) (limdOrNop rd um li) := by
  unfold limdOrNop
  split_ifs with hnop
  · obtain ⟨⟨rfl, rfl⟩, rfl⟩ : (rd = 36 ∧ um = false) ∧ li = 0 := by simpa using hnop
    exact ⟨rfl, rfl⟩
  · exact ⟨congrArg not (Bool.eq_false_of_not_eq_true hnop), rfl⟩

theorem srhOrShfm_word (adr : BitVec 2) (reg : BitVec 3) (rsa : Reg) (lsbs : BitVec 5)
    (rsb : SReg) :
    WordOf plus (encodeNat (.srh adr reg rsa lsbs rsb)) (srhOrShfm adr reg rsa lsbs rsb) := by
  unfold srhOrShfm
  split_ifs with hshfm
  · obtain ⟨⟨rfl, rfl⟩, rfl⟩ : (adr = 0 ∧ reg = 0) ∧ lsbs = 0 := by simpa using hshfm
    exact ⟨rfl, rfl⟩
  · exact ⟨congrArg not (Bool.eq_false_of_not_eq_true hshfm), rfl⟩

end

/-! ### Each decoder is faithful -/

section
variable {plus : Bool} {w : Nat} (hw : w < 2 ^ 32) {op : Nat} (hop : fld w 31 26 = op)
include hw hop

theorem decodeAlu3_faithful {k : Reg → Bool → Abc → Reg → BitVec 4 → Bool → SReg → Instr}
    (hk : ∀ rd um a rsa m ae rsb,
      WordOf plus (encAlu3 op rd um (abcCode a) rsa m ae rsb) (k rd um a rsa m ae rsb)) :
    Faithful plus w (decodeAlu3 w k) :=
  .of_withAbc fun a ha => by
    have e := encAlu3_of_fields hw
    rw [hop, ← ha] at e
    exact (hk ..).of_eq e

theorem decodeAlu3C_faithful {k : Reg → Bool → BitVec 3 → Reg → BitVec 4 → Bool → SReg → Instr}
    (hk : ∀ rd um cc rsa m ae rsb,
      WordOf plus (encAlu3 op rd um cc.toNat rsa m ae rsb) (k rd um cc rsa m ae rsb)) :
    Faithful plus w (decodeAlu3C w k) :=
  .of_ok <| by
    have e := encAlu3_of_fields hw
    rw [hop, ← toNat_ofNat_fld w 18 16] at e
    exact (hk ..).of_eq e

theorem decodeAluI6_faithful {k : Reg → Bool → Abc → Reg → BitVec 4 → BitVec 6 → Instr}
    (hk : ∀ rd um a rsa m usi,
      WordOf plus (aluHead op rd um (abcCode a) rsa + m.toNat * 2 ^ 6 + usi.toNat)
        (k rd um a rsa m usi)) :
    Faithful plus w (decodeAluI6 w k) :=
  .of_withAbc fun a ha => by
    have e := encAluI6_of_fields hw
    rw [hop, ← ha] at e
    exact (hk ..).of_eq e

theorem decodeAluI10_faithful {k : Reg → Bool → Abc → Reg → BitVec 10 → Instr}
    (hk : ∀ rd um a rsa si,
      WordOf plus (encAluI10 op rd um (abcCode a) rsa si) (k rd um a rsa si)) :
    Faithful plus w (decodeAluI10 w k) :=
  .of_withAbc fun a ha => by
    have e := encAluI10_of_fields hw
    rw [hop, ← ha] at e
    exact (hk ..).of_eq e

theorem decodeAluI10C_faithful {k : Reg → Bool → BitVec 3 → Reg → BitVec 10 → Instr}
    (hk : ∀ rd um cc rsa si,
      WordOf plus (encAluI10 op rd um cc.toNat rsa si) (k rd um cc rsa si)) :
    Faithful plus w (decodeAluI10C w k) :=
  .of_ok <| by
    have e := encAluI10_of_fields hw
    rw [hop, ← toNat_ofNat_fld w 18 16] at e
    exact (hk ..).of_eq e

theorem decodeSftR_faithful {k : Reg → Bool → Abc → Reg → BitVec 4 → SReg → Instr}
    (hk : ∀ rd um a rsa m rsb,
      WordOf plus (encAlu3 op rd um (abcCode a) rsa m false rsb) (k rd um a rsa m rsb)) :
    Faithful plus w (decodeSftR true w k) :=
  .of_fixed fun hfix => .of_withAbc fun a ha => by
    have h5 : bitAt w 5 = false := by simpa using hfix
    have e := encAlu3_of_fields hw
    rw [hop, ← ha, h5] at e
    exact (hk ..).of_eq e

theorem decodeBranchW_faithful {k : Fin 16 → Bool → Bool → Cso → BitVec 12 → Instr}
    (hk : ∀ ess sense c cso wadr,
      WordOf plus (encBranch op ess sense c cso wadr.toNat) (k ess sense c cso wadr)) :
    Faithful plus w (decodeBranchW w k) := by
  unfold decodeBranchW
  split
  · next cso hcso =>
    have e := encBranch_of_fields hw (csoCode_of_csoOfCode hcso)
    rw [hop, ← toNat_ofNat_fld w 11 0] at e
    exact .of_ok ((hk ..).of_eq e)
  · exact .of_error _

theorem decodeBranchR_faithful {k : Fin 16 → Bool → Bool → Cso → Instr}
    (hk : ∀ ess sense c cso,
      WordOf plus (encBranch op ess sense c cso 0) (k ess sense c cso)) :
    Faithful plus w (decodeBranchR true w k) :=
  .of_fixed fun hz => by
    split
    · next cso hcso =>
      have e := encBranch_of_fields hw (csoCode_of_csoOfCode hcso)
      rw [hop, beq_iff_eq.1 hz] at e
      exact .of_ok ((hk ..).of_eq e)
    · exact .of_error _

theorem decodeDma1_faithful {op' : Nat} (hop' : op / 2 = op')
    {k : BitVec 8 → Rla → Reg → Bool → Bool → Bool → Bool → Bool → SReg → Instr}
    {kp : BitVec 7 → Rla → Reg → Bool → Bool → Bool → Bool → Bool → SReg → Instr}
    (hk : ∀ bc rla rsa ibi x y pod st rsb, (plus = true → bc.toNat < 128) →
      WordOf plus (encDma op' bc.toNat rla rsa ibi x y pod st rsb) (k bc rla rsa ibi x y pod st rsb))
    (hkp : ∀ bc rla rsa ibi x y pod st rsb, plus = true →
      WordOf plus (encDma op' (128 + bc.toNat) rla rsa ibi x y pod st rsb)
        (kp bc rla rsa ibi x y pod st rsb)) :
    Faithful plus w (decodeDma1 plus w k kp) := by
  have e := encDma_of_fields hw
  rw [dma_code hop, hop'] at e
  refine .of_ite (fun hplus => .of_ok ?_) fun hplain => .of_ok ?_
  · obtain ⟨hp, h26⟩ : plus = true ∧ bitAt w 26 = true := by simpa using hplus
    rw [dma_count_plus h26] at e
    exact (hkp _ _ _ _ _ _ _ _ _ hp).of_eq e
  · rw [← toNat_ofNat_fld w 26 19] at e
    exact (hk _ _ _ _ _ _ _ _ _ fun hp => dma_count_lt (by simpa [hp] using hplain)).of_eq e

theorem decodeDma2_faithful {op' : Nat} (hop' : op / 2 = op')
    {k : BitVec 8 → Rla → Reg → Bool → Bool → SReg → Instr}
    {kp : BitVec 7 → Rla → Reg → Bool → Bool → SReg → Instr}
    (hk : ∀ bc rla rsa ibi pod rsb, (plus = true → bc.toNat < 128) →
      WordOf plus (encDma op' bc.toNat rla rsa ibi false false pod false rsb)
        (k bc rla rsa ibi pod rsb))
    (hkp : ∀ bc rla rsa ibi pod rsb, plus = true →
      WordOf plus (encDma op' (128 + bc.toNat) rla rsa ibi false false pod false rsb)
        (kp bc rla rsa ibi pod rsb)) :
    Faithful plus w (decodeDma2 true plus w k kp) := by
  refine .of_fixed fun hfix => ?_
  obtain ⟨⟨h8, h7⟩, h5⟩ : (bitAt w 8 = false ∧ bitAt w 7 = false) ∧ bitAt w 5 = false := by
    simpa using hfix
  have e := encDma_of_fields hw
  rw [dma_code hop, hop', h8, h7, h5] at e
  refine .of_ite (fun hplus => .of_ok ?_) fun hplain => .of_ok ?_
  · obtain ⟨hp, h26⟩ : plus = true ∧ bitAt w 26 = true := by simpa using hplus
    rw [dma_count_plus h26] at e
    exact (hkp _ _ _ _ _ _ hp).of_eq e
  · rw [← toNat_ofNat_fld w 26 19] at e
    exact (hk _ _ _ _ _ _ fun hp => dma_count_lt (by simpa [hp] using hplain)).of_eq e
end

section
variable {plus : Bool} {w : Nat} (hw : w < 2 ^ 32)
include hw

theorem decodeCmpR_faithful (hop : fld w 31 26 = 0b111010) :
    Faithful plus w (decodeCmpR true w) := by
  refine .of_fixed fun hfix => ?_
  obtain ⟨hz, hm⟩ : fld w 24 19 = 0 ∧ fld w 9 6 = 15 := by simpa using hfix
  obtain ⟨hrd, hum⟩ := compare_head hz
  have e := encAlu3_of_fields hw
  rw [hop, hrd, hum, hm, ← toNat_ofNat_fld w 18 16] at e
  refine .of_ite (fun h25 => .of_ok ?_) fun h25 => .of_ok ?_
  all_goals
    rw [h25] at e
    exact ⟨rfl, e⟩

theorem decodeCmpI_faithful (hop : fld w 31 26 = 0b111110) :
    Faithful plus w (decodeCmpI true w) := by
  refine .of_fixed fun hfix => ?_
  obtain ⟨hrd, hum⟩ := compare_head (beq_iff_eq.1 hfix)
  have e := encAluI10_of_fields hw
  rw [hop, hrd, hum, ← toNat_ofNat_fld w 18 16] at e
  refine .of_ite (fun h25 => .of_ok ?_) fun h25 => .of_ok ?_
  all_goals
    rw [h25] at e
    exact ⟨rfl, e⟩

theorem decodeFls_faithful (hop : fld w 31 26 = 0b111011) :
    Faithful plus w (decodeFls true w) :=
  .of_fixed fun hfix => .of_withAbc fun a ha => by
    obtain ⟨hm, hrsb⟩ : fld w 9 6 = 15 ∧ fld w 4 0 = 0 := by simpa using hfix
    have e := encAlu3_of_fields hw
    rw [hop, hm, hrsb, ← ha] at e
    exact ⟨rfl, e⟩

theorem decodeSftai_faithful (hop : fld w 31 26 = 0b101111) :
    Faithful plus w (decodeSftai true w) :=
  .of_fixed fun hfix => .of_withAbc fun a ha => by
    obtain ⟨h5, h4⟩ : bitAt w 5 = false ∧ bitAt w 4 = true := by simpa using hfix
    have e := encSftI_of_fields hw
    rw [hop, h5, h4, ← ha] at e
    exact ⟨rfl, e⟩

theorem decodeSftci_faithful (hop : fld w 31 26 = 0b101110) :
    Faithful plus w (decodeSftci true w) :=
  .of_fixed fun h4 => .of_withAbc fun a ha => by
    have e := encSftI_of_fields hw
    rw [hop, h4, ← ha] at e
    exact ⟨rfl, e⟩

theorem decodeSft5_faithful (hop : fld w 31 26 = 0b101101) : Faithful plus w (decodeSft5 w) :=
  .of_withAbc fun a ha => by
    have e := encSftI_of_fields hw
    rw [hop, ← ha] at e
    cases h4 : bitAt w 4
    all_goals
      rw [h4] at e
      exact ⟨rfl, e⟩

theorem decodeLimd_faithful (hop : fld w 31 26 = 0b111111) :
    Faithful plus w (decodeLimd true w) := by
  refine .of_fixed fun hfix => .of_ok ((limdOrNop_word ..).of_eq ?_)
  have hz : fld w 18 16 = 0 := beq_iff_eq.1 hfix
  rw [encodeNat, bitN_bitAt, regAt_val (fld_lt w 25 20), toNat_ofNat_fld w 15 0]
  have := fld_word hw
  have := fld_join w 31 16 15 0 rfl
  have := fld_join w 31 19 18 16 rfl
  have := fld_join w 31 20 19 19 rfl
  have := fld_join w 31 26 25 20 rfl
  omega

theorem decodePush_faithful (hop : fld w 31 26 = 0b001000) :
    Faithful plus w (decodePush true w) := by
  have hword := fld_word hw
  have := fld_join w 31 5 4 0 rfl
  have := fld_join w 31 10 9 5 rfl
  have := fld_join w 31 16 15 10 rfl
  have := fld_join w 31 19 18 16 rfl
  have := fld_join w 31 26 25 19 rfl
  unfold decodePush
  split
  case h_3 => exact .of_error _
  all_goals
    refine .of_fixed fun hfix => .of_ok ⟨rfl, ?_⟩
    obtain ⟨hz, hz'⟩ : fld w 25 19 = 0 ∧ fld w 9 5 = 0 := by simpa using hfix
    rw [encodeNat, regAt_val (fld_lt w 15 10), sregAt_val (fld_lt w 4 0)]
    omega

theorem decodePop_faithful (hop : fld w 31 26 = 0b001001) :
    Faithful plus w (decodePop true w) := by
  have hword := fld_word hw
  have := fld_join w 31 5 4 0 rfl
  have := fld_join w 31 16 15 5 rfl
  have := fld_join w 31 19 18 16 rfl
  have := fld_join w 31 20 19 19 rfl
  have := fld_join w 31 26 25 20 rfl
  unfold decodePop
  split
  case h_3 => exact .of_error _
  all_goals
    refine .of_fixed fun hfix => .of_ok ⟨rfl, ?_⟩
    obtain ⟨h19, hz⟩ : bitAt w 19 = false ∧ fld w 15 5 = 0 := by simpa using hfix
    have := fld_of_bitAt_false h19
    rw [encodeNat, regAt_val (fld_lt w 25 20), sregAt_val (fld_lt w 4 0)]
    omega

theorem decodeLmfm_faithful (hop : fld w 31 26 = 0b010101) :
    Faithful plus w (decodeLmfm true w) := by
  refine .of_fixed fun hfix => .of_ok ⟨rfl, ?_⟩
  have hz : fld w 18 17 = 0 := beq_iff_eq.1 hfix
  simp only [encodeNat, bitN_bitAt, toNat_ofNat_fld w 9 5]
  rw [regAt_val (fld_lt w 25 20), regAt_val (fld_lt w 15 10), sregAt_val (fld_lt w 4 0)]
  have := fld_word hw
  have := fld_join w 31 5 4 0 rfl
  have := fld_join w 31 10 9 5 rfl
  have := fld_join w 31 16 15 10 rfl
  have := fld_join w 31 17 16 16 rfl
  have := fld_join w 31 19 18 17 rfl
  have := fld_join w 31 20 19 19 rfl
  have := fld_join w 31 26 25 20 rfl
  omega

theorem decodeSrh_faithful (hop : fld w 31 26 = 0b010111) :
    Faithful plus w (decodeSrh true w) := by
  refine .of_fixed fun hfix => .of_ok ((srhOrShfm_word ..).of_eq ?_)
  have hz : fld w 25 21 = 0 := beq_iff_eq.1 hfix
  rw [encodeNat, toNat_ofNat_fld w 20 19, toNat_ofNat_fld w 18 16, toNat_ofNat_fld w 9 5,
    regAt_val (fld_lt w 15 10), sregAt_val (fld_lt w 4 0)]
  have := fld_word hw
  have := fld_join w 31 5 4 0 rfl
  have := fld_join w 31 10 9 5 rfl
  have := fld_join w 31 16 15 10 rfl
  have := fld_join w 31 19 18 16 rfl
  have := fld_join w 31 21 20 19 rfl
  have := fld_join w 31 26 25 21 rfl
  omega

theorem decodeLoad_faithful {op : Nat} (hop : fld w 31 26 = op)
    {k : Reg → Rla → BitVec 2 → BitVec 5 → Instr}
    (hk : ∀ rd rla swap idx, WordOf plus (op * 2 ^ 26 + rd.val * 2 ^ 20 + rlaCode rla * 2 ^ 16 +
      swap.toNat * 2 ^ 10 + idx.toNat * 2 ^ 5) (k rd rla swap idx)) :
    Faithful plus w (decodeLoad true w k) := by
  refine .of_fixed fun hfix => .of_ok ((hk ..).of_eq ?_)
  obtain ⟨⟨h19, hz⟩, hz'⟩ : (bitAt w 19 = false ∧ fld w 15 12 = 0) ∧ fld w 4 0 = 0 := by
    simpa using hfix
  have := fld_of_bitAt_false h19
  rw [regAt_val (fld_lt w 25 20), rlaCode_fld, toNat_ofNat_fld w 11 10, toNat_ofNat_fld w 9 5]
  have := fld_word hw
  have := fld_join w 31 5 4 0 rfl
  have := fld_join w 31 10 9 5 rfl
  have := fld_join w 31 12 11 10 rfl
  have := fld_join w 31 16 15 12 rfl
  have := fld_join w 31 19 18 16 rfl
  have := fld_join w 31 20 19 19 rfl
  have := fld_join w 31 26 25 20 rfl
  omega

theorem store_of_fields (hz : fld w 25 22 = 0) (h19 : bitAt w 19 = false) :
    fld w 31 26 * 2 ^ 26 + (BitVec.ofNat 2 (fld w 21 20)).toNat * 2 ^ 20 +
      rlaCode (rlaOfCode (fld w 18 16)) * 2 ^ 16 + (regAt (fld w 15 10)).val * 2 ^ 10 +
      (BitVec.ofNat 5 (fld w 9 5)).toNat * 2 ^ 5 + (sregAt (fld w 4 0)).val = w := by
  have := fld_of_bitAt_false h19
  rw [toNat_ofNat_fld w 21 20, rlaCode_fld, regAt_val (fld_lt w 15 10), toNat_ofNat_fld w 9 5,
    sregAt_val (fld_lt w 4 0)]
  have := fld_word hw
  have := fld_join w 31 5 4 0 rfl
  have := fld_join w 31 10 9 5 rfl
  have := fld_join w 31 16 15 10 rfl
  have := fld_join w 31 19 18 16 rfl
  have := fld_join w 31 20 19 19 rfl
  have := fld_join w 31 22 21 20 rfl
  have := fld_join w 31 26 25 22 rfl
  omega

theorem decodeSt_faithful (hop : fld w 31 26 = 0b010010) : Faithful plus w (decodeSt true w) := by
  refine .of_fixed fun hfix => .of_ok ⟨rfl, ?_⟩
  obtain ⟨⟨hz, h19⟩, hrsb⟩ : (fld w 25 22 = 0 ∧ bitAt w 19 = false) ∧ fld w 4 0 = 0 := by
    simpa using hfix
  have e := store_of_fields hw hz h19
  rwa [hop, hrsb] at e

theorem decodeStd_faithful (hop : fld w 31 26 = 0b010011) : Faithful plus w (decodeStd true w) := by
  refine .of_fixed fun hfix => .of_ok ⟨rfl, ?_⟩
  obtain ⟨hz, h19⟩ : fld w 25 22 = 0 ∧ bitAt w 19 = false := by simpa using hfix
  have e := store_of_fields hw hz h19
  rwa [hop] at e

/-- The opcode map (R141): every word's decoder is faithful to it. -/
theorem decodeNat_faithful : Faithful plus w (decodeNat true plus w) := by
  unfold decodeNat
  split
  case h_47 => exact .of_error _
  all_goals rename_i hop
  · exact decodeBranchW_faithful hw hop fun _ _ _ _ _ => ⟨rfl, rfl⟩
  · exact decodeBranchW_faithful hw hop fun _ _ _ _ _ => ⟨rfl, rfl⟩
  · exact decodeBranchR_faithful hw hop fun _ _ _ _ => ⟨rfl, rfl⟩
  · exact decodeBranchR_faithful hw hop fun _ _ _ _ => ⟨rfl, rfl⟩
  · exact decodeBranchR_faithful hw hop fun _ _ _ _ => ⟨rfl, rfl⟩
  · exact decodeBranchR_faithful hw hop fun _ _ _ _ => ⟨rfl, rfl⟩
  · exact decodePush_faithful hw hop
  · exact decodePop_faithful hw hop
  · exact decodeLoad_faithful hw hop fun _ _ _ _ => ⟨rfl, rfl⟩
  · exact decodeLoad_faithful hw hop fun _ _ _ _ => ⟨rfl, rfl⟩
  · exact decodeSt_faithful hw hop
  · exact decodeStd_faithful hw hop
  · exact decodeLmfm_faithful hw hop
  · exact decodeSrh_faithful hw hop
  · exact decodeDma1_faithful hw hop rfl (fun _ _ _ _ _ _ _ _ _ h => ⟨count_wf.2 h, rfl⟩)
      fun _ _ _ _ _ _ _ _ _ hp => ⟨hp, rfl⟩
  · exact decodeDma1_faithful hw hop rfl (fun _ _ _ _ _ _ _ _ _ h => ⟨count_wf.2 h, rfl⟩)
      fun _ _ _ _ _ _ _ _ _ hp => ⟨hp, rfl⟩
  · exact decodeDma1_faithful hw hop rfl (fun _ _ _ _ _ _ _ _ _ h => ⟨count_wf.2 h, rfl⟩)
      fun _ _ _ _ _ _ _ _ _ hp => ⟨hp, rfl⟩
  · exact decodeDma1_faithful hw hop rfl (fun _ _ _ _ _ _ _ _ _ h => ⟨count_wf.2 h, rfl⟩)
      fun _ _ _ _ _ _ _ _ _ hp => ⟨hp, rfl⟩
  · exact decodeDma2_faithful hw hop rfl (fun _ _ _ _ _ _ h => ⟨count_wf.2 h, rfl⟩)
      fun _ _ _ _ _ _ hp => ⟨hp, rfl⟩
  · exact decodeDma2_faithful hw hop rfl (fun _ _ _ _ _ _ h => ⟨count_wf.2 h, rfl⟩)
      fun _ _ _ _ _ _ hp => ⟨hp, rfl⟩
  · exact decodeDma2_faithful hw hop rfl (fun _ _ _ _ _ _ h => ⟨count_wf.2 h, rfl⟩)
      fun _ _ _ _ _ _ hp => ⟨hp, rfl⟩
  · exact decodeDma2_faithful hw hop rfl (fun _ _ _ _ _ _ h => ⟨count_wf.2 h, rfl⟩)
      fun _ _ _ _ _ _ hp => ⟨hp, rfl⟩
  · exact decodeAlu3_faithful hw hop fun _ _ _ _ _ _ _ => ⟨rfl, rfl⟩
  · exact decodeAlu3_faithful hw hop fun _ _ _ _ _ _ _ => ⟨rfl, rfl⟩
  · exact decodeAluI6_faithful hw hop fun _ _ _ _ _ _ => ⟨rfl, rfl⟩
  · exact decodeAluI6_faithful hw hop fun _ _ _ _ _ _ => ⟨rfl, rfl⟩
  · exact decodeSftR_faithful hw hop fun _ _ _ _ _ _ => ⟨rfl, rfl⟩
  · exact decodeAlu3_faithful hw hop fun _ _ _ _ _ _ _ => ⟨rfl, rfl⟩
  · exact decodeSftR_faithful hw hop fun _ _ _ _ _ _ => ⟨rfl, rfl⟩
  · exact decodeSft5_faithful hw hop
  · exact decodeSftci_faithful hw hop
  · exact decodeSftai_faithful hw hop
  · exact decodeAlu3_faithful hw hop fun _ _ _ _ _ _ _ => ⟨rfl, rfl⟩
  · exact decodeAlu3_faithful hw hop fun _ _ _ _ _ _ _ => ⟨rfl, rfl⟩
  · exact decodeAlu3_faithful hw hop fun _ _ _ _ _ _ _ => ⟨rfl, rfl⟩
  · exact decodeAluI10_faithful hw hop andiOrTest_word
  · exact decodeAluI10_faithful hw hop oriOrMv_word
  · exact decodeAluI10_faithful hw hop fun _ _ _ _ _ => ⟨rfl, rfl⟩
  · exact decodeAlu3C_faithful hw hop fun _ _ _ _ _ _ _ => ⟨rfl, rfl⟩
  · exact decodeAlu3C_faithful hw hop fun _ _ _ _ _ _ _ => ⟨rfl, rfl⟩
  · exact decodeCmpR_faithful hw hop
  · exact decodeFls_faithful hw hop
  · exact decodeAluI10C_faithful hw hop fun _ _ _ _ _ => ⟨rfl, rfl⟩
  · exact decodeAluI10C_faithful hw hop fun _ _ _ _ _ => ⟨rfl, rfl⟩
  · exact decodeCmpI_faithful hw hop
  · exact decodeLimd_faithful hw hop
end

/-- Settles O2: each format's decoder, with its fixed bits checked, reads every bit of the word. -/
theorem encodeOfDecode : Obligations.EncodeOfDecode := by
  unfold Obligations.EncodeOfDecode
  intro plus w i h
  obtain ⟨hwf, hword⟩ := decodeNat_faithful w.isLt i h
  exact ⟨hwf, by rw [encode, hword, BitVec.ofNat_toNat, BitVec.setWidth_eq]⟩

end Sys2Proof
end

section
/-!
PROOFS. Decoding the word of a well-formed instruction gives it back (30 R140 to R169): for each format,
the row of the opcode map that selects its decoder, and what the decoder makes of the encoded fields.
-/
namespace Sys2Proof
open Sys2Proof.Laws

/-! ### The steps of a decoder, on fields that are as printed -/

theorem fixed_true (strict : Bool) (k : Decoded) : fixed strict true k = k := by
  cases strict <;> rfl

theorem withAbc_code {w : Nat} {a : Abc} (h : fld w 18 16 = abcCode a) (k : Abc → Instr) :
    withAbc w k = .ok (k a) := by
  rw [withAbc, h, abcOfCode_abcCode]

theorem abcCode_lt (a : Abc) : abcCode a < 8 := Nat.lt_succ_of_le (EncodeFits.abcCode_le a)

/-- The encoder's number is the word, for it fits 32 bits. -/
theorem decode_encode_of_fits {strict plus : Bool} {i : Instr} (fits : EncodeFits.Statement i)
    (h : decodeNat strict plus (encodeNat i) = .ok i) : decode strict plus (encode i) = .ok i := by
  rw [decode, encode, BitVec.toNat_ofNat, Nat.mod_eq_of_lt fits, h]

/-! ### Formats with several operation codes

`row` is the row of the opcode map that selects the format's decoder. -/

section
variable {strict plus : Bool} {op : Nat} {rd : Reg} {um : Bool} {a : Abc} {cc : BitVec 3}
  {rsa : Reg} {m : BitVec 4} {ae : Bool} {rsb : SReg} (hop : op < 64)
include hop

theorem decodeNat_alu3 {k : Reg → Bool → Abc → Reg → BitVec 4 → Bool → SReg → Instr}
    (row : ∀ w, fld w 31 26 = op → decodeNat strict plus w = decodeAlu3 w k) :
    decodeNat strict plus (encAlu3 op rd um (abcCode a) rsa m ae rsb) =
      .ok (k rd um a rsa m ae rsb) := by
  obtain ⟨h, hrd, hum, ha, hrsa, hm, hae, hrsb⟩ :=
    fields_encAlu3 hop rd um (abcCode_lt a) rsa m ae rsb
  rw [row _ h, decodeAlu3, withAbc_code ha, hrd, hum, hrsa, ofNat_eq hm, hae, sregAt_eq hrsb]

theorem decodeNat_alu3C {k : Reg → Bool → BitVec 3 → Reg → BitVec 4 → Bool → SReg → Instr}
    (row : ∀ w, fld w 31 26 = op → decodeNat strict plus w = decodeAlu3C w k) :
    decodeNat strict plus (encAlu3 op rd um cc.toNat rsa m ae rsb) =
      .ok (k rd um cc rsa m ae rsb) := by
  obtain ⟨h, hrd, hum, hcc, hrsa, hm, hae, hrsb⟩ :=
    fields_encAlu3 hop rd um cc.isLt rsa m ae rsb
  rw [row _ h, decodeAlu3C, ofNat_eq hcc, hrd, hum, hrsa, ofNat_eq hm, hae, sregAt_eq hrsb]

theorem decodeNat_aluI6 {usi : BitVec 6} {k : Reg → Bool → Abc → Reg → BitVec 4 → BitVec 6 → Instr}
    (row : ∀ w, fld w 31 26 = op → decodeNat strict plus w = decodeAluI6 w k) :
    decodeNat strict plus (aluHead op rd um (abcCode a) rsa + m.toNat * 2 ^ 6 + usi.toNat) =
      .ok (k rd um a rsa m usi) := by
  obtain ⟨h, hrd, hum, ha, hrsa, hm, husi⟩ := fields_encAluI6 hop rd um (abcCode_lt a) rsa m usi
  rw [row _ h, decodeAluI6, withAbc_code ha, hrd, hum, hrsa, hm, husi]

theorem decodeNat_aluI10 {si : BitVec 10} {k : Reg → Bool → Abc → Reg → BitVec 10 → Instr}
    (row : ∀ w, fld w 31 26 = op → decodeNat strict plus w = decodeAluI10 w k) :
    decodeNat strict plus (encAluI10 op rd um (abcCode a) rsa si) = .ok (k rd um a rsa si) := by
  obtain ⟨h, hrd, hum, ha, hrsa, hsi⟩ := fields_encAluI10 hop rd um (abcCode_lt a) rsa si
  rw [row _ h, decodeAluI10, withAbc_code ha, hrd, hum, hrsa, hsi]

theorem decodeNat_aluI10C {si : BitVec 10} {k : Reg → Bool → BitVec 3 → Reg → BitVec 10 → Instr}
    (row : ∀ w, fld w 31 26 = op → decodeNat strict plus w = decodeAluI10C w k) :
    decodeNat strict plus (encAluI10 op rd um cc.toNat rsa si) = .ok (k rd um cc rsa si) := by
  obtain ⟨h, hrd, hum, hcc, hrsa, hsi⟩ := fields_encAluI10 hop rd um cc.isLt rsa si
  rw [row _ h, decodeAluI10C, ofNat_eq hcc, hrd, hum, hrsa, hsi]

theorem decodeNat_sftR {k : Reg → Bool → Abc → Reg → BitVec 4 → SReg → Instr}
    (row : ∀ w, fld w 31 26 = op → decodeNat strict plus w = decodeSftR strict w k) :
    decodeNat strict plus (encAlu3 op rd um (abcCode a) rsa m false rsb) =
      .ok (k rd um a rsa m rsb) := by
  obtain ⟨h, hrd, hum, ha, hrsa, hm, h5, hrsb⟩ :=
    fields_encAlu3 hop rd um (abcCode_lt a) rsa m false rsb
  rw [row _ h, decodeSftR, h5, Bool.not_false, fixed_true, withAbc_code ha, hrd, hum, hrsa,
    ofNat_eq hm, sregAt_eq hrsb]

theorem decodeNat_branchW {ess : Fin 16} {sense c : Bool} {cso : Cso} {wadr : BitVec 12}
    {k : Fin 16 → Bool → Bool → Cso → BitVec 12 → Instr}
    (row : ∀ w, fld w 31 26 = op → decodeNat strict plus w = decodeBranchW w k) :
    decodeNat strict plus (encBranch op ess sense c cso wadr.toNat) =
      .ok (k ess sense c cso wadr) := by
  obtain ⟨h, hess, hs, hc, hcso, hwadr⟩ := fields_encBranch hop ess sense c cso wadr.isLt
  rw [row _ h, decodeBranchW, hcso, csoOfCode_csoCode, hess, hs, hc, ofNat_eq hwadr]

theorem decodeNat_branchR {ess : Fin 16} {sense c : Bool} {cso : Cso}
    {k : Fin 16 → Bool → Bool → Cso → Instr}
    (row : ∀ w, fld w 31 26 = op → decodeNat strict plus w = decodeBranchR strict w k) :
    decodeNat strict plus (encBranch op ess sense c cso 0) = .ok (k ess sense c cso) := by
  obtain ⟨h, hess, hs, hc, hcso, hz⟩ := fields_encBranch hop ess sense c cso (by decide : 0 < 4096)
  rw [row _ h, decodeBranchR, hz, beq_self_eq_true, fixed_true, hcso, csoOfCode_csoCode, hess, hs, hc]

theorem decodeNat_load {rla : Rla} {swap : BitVec 2} {idx : BitVec 5}
    {k : Reg → Rla → BitVec 2 → BitVec 5 → Instr}
    (row : ∀ w, fld w 31 26 = op → decodeNat strict plus w = decodeLoad strict w k) :
    decodeNat strict plus (op * 2 ^ 26 + rd.val * 2 ^ 20 + rlaCode rla * 2 ^ 16 +
      swap.toNat * 2 ^ 10 + idx.toNat * 2 ^ 5) = .ok (k rd rla swap idx) := by
  obtain ⟨h, hrd, h19, hrla, hz, hswap, hidx, hz'⟩ := fields_load hop rd rla swap idx
  rw [row _ h, decodeLoad, hrd, hrla, hswap, hidx, h19, hz, hz']
  exact fixed_true ..

end

/-! ### The DMA formats (R161, R162) -/

theorem count_plain {plus : Bool} {n : Nat} (h : plus = true → n < 128) :
    (plus && decide (128 ≤ n)) = false := by
  cases plus with
  | false => rfl
  | true => exact decide_eq_false (Nat.not_le.2 (h rfl))

theorem count_plus {plus : Bool} {n : Nat} (h : plus = true) :
    (plus && decide (128 ≤ 128 + n)) = true := by
  rw [h, Bool.true_and]
  exact decide_eq_true (Nat.le_add_right ..)

theorem count_plus_lt (bc : BitVec 7) : 128 + bc.toNat < 256 := by have := bc.isLt; omega

theorem count_low (bc : BitVec 7) : (128 + bc.toNat) % 128 = bc.toNat := by have := bc.isLt; omega

/-- Both values of bit 26 stand in the opcode map under the same decoder (R161). -/
theorem row_dma1r {strict plus : Bool} (w b : Nat) (hb : b < 2) (h : fld w 31 26 = 2 * 0b01100 + b) :
    decodeNat strict plus w = decodeDma1 plus w .dma1r .dma1rPlus := by
  interval_cases b <;> simp only [decodeNat, h]

theorem row_dma1w {strict plus : Bool} (w b : Nat) (hb : b < 2) (h : fld w 31 26 = 2 * 0b01101 + b) :
    decodeNat strict plus w = decodeDma1 plus w .dma1w .dma1wPlus := by
  interval_cases b <;> simp only [decodeNat, h]

theorem row_dma2r {strict plus : Bool} (w b : Nat) (hb : b < 2) (h : fld w 31 26 = 2 * 0b01110 + b) :
    decodeNat strict plus w = decodeDma2 strict plus w .dma2r .dma2rPlus := by
  interval_cases b <;> simp only [decodeNat, h]

theorem row_dma2w {strict plus : Bool} (w b : Nat) (hb : b < 2) (h : fld w 31 26 = 2 * 0b01111 + b) :
    decodeNat strict plus w = decodeDma2 strict plus w .dma2w .dma2wPlus := by
  interval_cases b <;> simp only [decodeNat, h]

section
variable {strict plus : Bool} {op : Nat} {rla : Rla} {rsa : Reg} {ibi x y pod st : Bool} {rsb : SReg}
  (hop : op < 32)
include hop

/-- In DMA Plus mode bit 26 tells the "+" forms from the others, whose byte counts are below 128 (R162). -/
theorem decodeNat_dma1 {k : BitVec 8 → Rla → Reg → Bool → Bool → Bool → Bool → Bool → SReg → Instr}
    {kp : BitVec 7 → Rla → Reg → Bool → Bool → Bool → Bool → Bool → SReg → Instr}
    (row : ∀ w b, b < 2 → fld w 31 26 = 2 * op + b →
      decodeNat strict plus w = decodeDma1 plus w k kp) :
    (∀ bc : BitVec 8, (plus = true → bc.toNat < 128) →
      decodeNat strict plus (encDma op bc.toNat rla rsa ibi x y pod st rsb) =
        .ok (k bc rla rsa ibi x y pod st rsb)) ∧
    ∀ bc : BitVec 7, plus = true →
      decodeNat strict plus (encDma op (128 + bc.toNat) rla rsa ibi x y pod st rsb) =
        .ok (kp bc rla rsa ibi x y pod st rsb) := by
  constructor
  · intro bc hbc
    obtain ⟨h, h26, hcount, -, hrla, hrsa, hibi, hx, hy, hpod, hst, hrsb⟩ :=
      fields_encDma hop bc.isLt rla rsa ibi x y pod st rsb
    rw [row _ _ (by omega) h, decodeDma1, h26, count_plain hbc, ofNat_eq hcount, hrla, hrsa, hibi, hx,
      hy, hpod, hst, hrsb]
    rfl
  · intro bc hplus
    obtain ⟨h, h26, -, hcount, hrla, hrsa, hibi, hx, hy, hpod, hst, hrsb⟩ :=
      fields_encDma hop (count_plus_lt bc) rla rsa ibi x y pod st rsb
    rw [row _ _ (by omega) h, decodeDma1, h26, count_plus hplus, ofNat_eq (hcount.trans (count_low bc)),
      hrla, hrsa, hibi, hx, hy, hpod, hst, hrsb]
    rfl

theorem decodeNat_dma2 {k : BitVec 8 → Rla → Reg → Bool → Bool → SReg → Instr}
    {kp : BitVec 7 → Rla → Reg → Bool → Bool → SReg → Instr}
    (row : ∀ w b, b < 2 → fld w 31 26 = 2 * op + b →
      decodeNat strict plus w = decodeDma2 strict plus w k kp) :
    (∀ bc : BitVec 8, (plus = true → bc.toNat < 128) →
      decodeNat strict plus (encDma op bc.toNat rla rsa ibi false false pod false rsb) =
        .ok (k bc rla rsa ibi pod rsb)) ∧
    ∀ bc : BitVec 7, plus = true →
      decodeNat strict plus (encDma op (128 + bc.toNat) rla rsa ibi false false pod false rsb) =
        .ok (kp bc rla rsa ibi pod rsb) := by
  constructor
  · intro bc hbc
    obtain ⟨h, h26, hcount, -, hrla, hrsa, hibi, h8, h7, hpod, h5, hrsb⟩ :=
      fields_encDma hop bc.isLt rla rsa ibi false false pod false rsb
    rw [row _ _ (by omega) h, decodeDma2, h8, h7, h5, h26, count_plain hbc, ofNat_eq hcount, hrla, hrsa,
      hibi, hpod, hrsb]
    exact fixed_true ..
  · intro bc hplus
    obtain ⟨h, h26, -, hcount, hrla, hrsa, hibi, h8, h7, hpod, h5, hrsb⟩ :=
      fields_encDma hop (count_plus_lt bc) rla rsa ibi false false pod false rsb
    rw [row _ _ (by omega) h, decodeDma2, h8, h7, h5, h26, count_plus hplus,
      ofNat_eq (hcount.trans (count_low bc)), hrla, hrsa, hibi, hpod, hrsb]
    exact fixed_true ..

end

/-! ### Formats with one operation code -/

section
variable {strict plus : Bool} {rd : Reg} {um : Bool} {a : Abc} {cc : BitVec 3} {rsa : Reg}
  {m : BitVec 4} {ae : Bool} {si : BitVec 10} {amt : BitVec 4} {rsb : SReg} {swap : BitVec 2}
  {rla : Rla} {idx : BitVec 5}

theorem decodeNat_cmpR (previous : Bool) :
    decodeNat strict plus (encAlu3 0b111010 (cond previous 32 0) false cc.toNat rsa 15 ae rsb) =
      .ok (if previous then .cmpp cc rsa ae rsb else .cmp cc rsa ae rsb) := by
  obtain ⟨h, hrd, hum, hcc, hrsa, hm, hae, hrsb⟩ :=
    fields_encAlu3 (by decide : 0b111010 < 64) (cond previous 32 0) false cc.isLt rsa 15 ae rsb
  obtain ⟨hz, hprev⟩ := fixed_of_compare_head hrd hum
  have row : ∀ w, fld w 31 26 = 0b111010 → decodeNat strict plus w = decodeCmpR strict w :=
    fun w h => by simp only [decodeNat, h]
  rw [row _ h]
  unfold decodeCmpR
  rw [hz, hm, hprev, ofNat_eq hcc, hrsa, hae, sregAt_eq hrsb]
  exact (fixed_true ..).trans (apply_ite Except.ok ..).symm

theorem decodeNat_cmpI (previous : Bool) :
    decodeNat strict plus (encAluI10 0b111110 (cond previous 32 0) false cc.toNat rsa si) =
      .ok (if previous then .cmppi cc rsa si else .cmpi cc rsa si) := by
  obtain ⟨h, hrd, hum, hcc, hrsa, hsi⟩ :=
    fields_encAluI10 (by decide : 0b111110 < 64) (cond previous 32 0) false cc.isLt rsa si
  obtain ⟨hz, hprev⟩ := fixed_of_compare_head hrd hum
  have row : ∀ w, fld w 31 26 = 0b111110 → decodeNat strict plus w = decodeCmpI strict w :=
    fun w h => by simp only [decodeNat, h]
  rw [row _ h]
  unfold decodeCmpI
  rw [hz, hprev, ofNat_eq hcc, hrsa, hsi]
  exact (fixed_true ..).trans (apply_ite Except.ok ..).symm

theorem decodeNat_fls : decodeNat strict plus (encodeNat (.fls rd um a rsa ae)) =
    .ok (.fls rd um a rsa ae) := by
  obtain ⟨h, hrd, hum, ha, hrsa, hm, hae, hrsb⟩ :=
    fields_encAlu3 (by decide : 0b111011 < 64) rd um (abcCode_lt a) rsa 15 ae 0
  have row : ∀ w, fld w 31 26 = 0b111011 → decodeNat strict plus w = decodeFls strict w :=
    fun w h => by simp only [decodeNat, h]
  rw [encodeNat, row _ h]
  unfold decodeFls
  rw [hm, hrsb, withAbc_code ha, hrd, hum, hrsa, hae]
  exact fixed_true ..

theorem decodeNat_limd {li : BitVec 16} :
    decodeNat strict plus (encodeNat (.limd rd um li)) = .ok (limdOrNop rd um li) := by
  obtain ⟨h, hrd, hum, hz, hli⟩ := fields_limd rd um li
  have row : ∀ w, fld w 31 26 = 0b111111 → decodeNat strict plus w = decodeLimd strict w :=
    fun w h => by simp only [decodeNat, h]
  rw [row _ h]
  unfold decodeLimd
  rw [hz, hrd, hum, hli]
  exact fixed_true ..

theorem decodeNat_sftai : decodeNat strict plus (encodeNat (.sftai rd um a rsa m amt)) =
    .ok (.sftai rd um a rsa m amt) := by
  obtain ⟨h, hrd, hum, ha, hrsa, hm, h5, h4, hamt⟩ :=
    fields_encSftI (by decide : 0b101111 < 64) rd um (abcCode_lt a) rsa m false true amt
  have row : ∀ w, fld w 31 26 = 0b101111 → decodeNat strict plus w = decodeSftai strict w :=
    fun w h => by simp only [decodeNat, h]
  rw [encodeNat, row _ h]
  unfold decodeSftai
  rw [h5, h4, withAbc_code ha, hrd, hum, hrsa, hm, hamt]
  exact fixed_true ..

theorem decodeNat_sftci : decodeNat strict plus (encodeNat (.sftci rd um a rsa m ae amt)) =
    .ok (.sftci rd um a rsa m ae amt) := by
  obtain ⟨h, hrd, hum, ha, hrsa, hm, hae, h4, hamt⟩ :=
    fields_encSftI (by decide : 0b101110 < 64) rd um (abcCode_lt a) rsa m ae true amt
  have row : ∀ w, fld w 31 26 = 0b101110 → decodeNat strict plus w = decodeSftci strict w :=
    fun w h => by simp only [decodeNat, h]
  rw [encodeNat, row _ h]
  unfold decodeSftci
  rw [h4, withAbc_code ha, hrd, hum, hrsa, hm, hae, hamt]
  exact fixed_true ..

theorem decodeNat_sft5 (right : Bool) :
    decodeNat strict plus (encSftI 0b101101 rd um (abcCode a) rsa m ae right amt) =
      .ok (if right then .sftri rd um a rsa m ae amt else .sftli rd um a rsa m ae amt) := by
  obtain ⟨h, hrd, hum, ha, hrsa, hm, hae, hright, hamt⟩ :=
    fields_encSftI (by decide : 0b101101 < 64) rd um (abcCode_lt a) rsa m ae right amt
  have row : ∀ w, fld w 31 26 = 0b101101 → decodeNat strict plus w = decodeSft5 w :=
    fun w h => by simp only [decodeNat, h]
  rw [row _ h]
  unfold decodeSft5
  rw [withAbc_code ha, hrd, hum, hrsa, hm, hae, hright, hamt]

theorem decodeNat_push (flag : Bool) :
    decodeNat strict plus
        (0b001000 * 2 ^ 26 + cond flag 1 0 * 2 ^ 16 + rsa.val * 2 ^ 10 + rsb.val) =
      .ok (if flag then .pushf rsa rsb else .pushc rsa rsb) := by
  obtain ⟨h, hz, hsub, hrsa, hz', hrsb⟩ := fields_push flag rsa rsb
  have row : ∀ w, fld w 31 26 = 0b001000 → decodeNat strict plus w = decodePush strict w :=
    fun w h => by simp only [decodeNat, h]
  rw [row _ h]
  unfold decodePush
  rw [hsub, hz, hz', hrsa, hrsb]
  cases flag <;> exact fixed_true ..

theorem decodeNat_pushc : decodeNat strict plus (encodeNat (.pushc rsa rsb)) =
    .ok (.pushc rsa rsb) := by
  simpa [encodeNat] using decodeNat_push (strict := strict) (plus := plus) (rsa := rsa) (rsb := rsb) false

theorem decodeNat_pushf : decodeNat strict plus (encodeNat (.pushf rsa rsb)) =
    .ok (.pushf rsa rsb) := by
  simpa [encodeNat] using decodeNat_push (strict := strict) (plus := plus) (rsa := rsa) (rsb := rsb) true

theorem decodeNat_pop (flag : Bool) :
    decodeNat strict plus
        (0b001001 * 2 ^ 26 + rd.val * 2 ^ 20 + cond flag 1 0 * 2 ^ 16 + rsb.val) =
      .ok (if flag then .popf rd rsb else .popc rd rsb) := by
  obtain ⟨h, hrd, h19, hsub, hz, hrsb⟩ := fields_pop flag rd rsb
  have row : ∀ w, fld w 31 26 = 0b001001 → decodeNat strict plus w = decodePop strict w :=
    fun w h => by simp only [decodeNat, h]
  rw [row _ h]
  unfold decodePop
  rw [hsub, h19, hz, hrd, hrsb]
  cases flag <;> exact fixed_true ..

theorem decodeNat_popc : decodeNat strict plus (encodeNat (.popc rd rsb)) = .ok (.popc rd rsb) := by
  simpa [encodeNat] using decodeNat_pop (strict := strict) (plus := plus) (rd := rd) (rsb := rsb) false

theorem decodeNat_popf : decodeNat strict plus (encodeNat (.popf rd rsb)) = .ok (.popf rd rsb) := by
  simpa [encodeNat] using decodeNat_pop (strict := strict) (plus := plus) (rd := rd) (rsb := rsb) true

theorem decodeNat_lmfm {lnk z : Bool} {hw : BitVec 5} :
    decodeNat strict plus (encodeNat (.lmfm rd lnk z rsa hw rsb)) =
      .ok (.lmfm rd lnk z rsa hw rsb) := by
  obtain ⟨h, hrd, hlnk, hfix, hz, hrsa, hhw, hrsb⟩ := fields_lmfm rd lnk z rsa hw rsb
  have row : ∀ w, fld w 31 26 = 0b010101 → decodeNat strict plus w = decodeLmfm strict w :=
    fun w h => by simp only [decodeNat, h]
  rw [row _ h]
  unfold decodeLmfm
  rw [hrd, hlnk, hfix, hz, hrsa, hhw, hrsb]
  exact fixed_true ..

theorem decodeNat_srh {adr : BitVec 2} {reg : BitVec 3} {lsbs : BitVec 5} :
    decodeNat strict plus (encodeNat (.srh adr reg rsa lsbs rsb)) =
      .ok (srhOrShfm adr reg rsa lsbs rsb) := by
  obtain ⟨h, hz, hadr, hreg, hrsa, hlsbs, hrsb⟩ := fields_srh adr reg rsa lsbs rsb
  have row : ∀ w, fld w 31 26 = 0b010111 → decodeNat strict plus w = decodeSrh strict w :=
    fun w h => by simp only [decodeNat, h]
  rw [row _ h]
  unfold decodeSrh
  rw [hz, hadr, hreg, hrsa, hlsbs, hrsb]
  exact fixed_true ..

theorem decodeNat_st : decodeNat strict plus (encodeNat (.st swap rla rsa idx)) =
    .ok (.st swap rla rsa idx) := by
  obtain ⟨h, hz, hswap, h19, hrla, hrsa, hidx, hrsb⟩ :=
    fields_store (w := encodeNat (.st swap rla rsa idx)) (by decide : 0b010010 < 64)
      (by decide : 0 < 32) swap rla rsa idx rfl
  have row : ∀ w, fld w 31 26 = 0b010010 → decodeNat strict plus w = decodeSt strict w :=
    fun w h => by simp only [decodeNat, h]
  rw [row _ h]
  unfold decodeSt
  rw [hz, hswap, h19, hrla, hrsa, hidx, hrsb]
  exact fixed_true ..

theorem decodeNat_std : decodeNat strict plus (encodeNat (.std swap rla rsa idx rsb)) =
    .ok (.std swap rla rsa idx rsb) := by
  obtain ⟨h, hz, hswap, h19, hrla, hrsa, hidx, hrsb⟩ :=
    fields_store (w := encodeNat (.std swap rla rsa idx rsb)) (by decide : 0b010011 < 64)
      rsb.isLt swap rla rsa idx rfl
  have row : ∀ w, fld w 31 26 = 0b010011 → decodeNat strict plus w = decodeStd strict w :=
    fun w h => by simp only [decodeNat, h]
  rw [row _ h]
  unfold decodeStd
  rw [hz, hswap, h19, hrla, hrsa, hidx, sregAt_eq hrsb]
  exact fixed_true ..
end

/-! ### The words with two names, where the well-formed instruction is the general one -/

theorem andiOrTest_of_wf {plus : Bool} {rd : Reg} {um : Bool} {a : Abc} {rsa : Reg} {si : BitVec 10}
    (h : (Instr.andi rd um a rsa si).wf plus = true) :
    andiOrTest rd um a rsa si = .andi rd um a rsa si := by
  rw [Instr.wf, Bool.and_or_distrib_left, Bool.not_or, Bool.and_eq_true, Bool.not_eq_true',
    Bool.not_eq_true'] at h
  obtain ⟨hset, hclr⟩ := h
  rw [andiOrTest, hset, hclr]
  rfl

theorem oriOrMv_of_wf {plus : Bool} {rd : Reg} {um : Bool} {a : Abc} {rsa : Reg} {si : BitVec 10}
    (h : (Instr.ori rd um a rsa si).wf plus = true) :
    oriOrMv rd um a rsa si = .ori rd um a rsa si := by
  rw [Instr.wf, Bool.not_eq_true'] at h
  rw [oriOrMv, h]
  rfl

theorem limdOrNop_of_wf {plus : Bool} {rd : Reg} {um : Bool} {li : BitVec 16}
    (h : (Instr.limd rd um li).wf plus = true) : limdOrNop rd um li = .limd rd um li := by
  rw [Instr.wf, Bool.not_eq_true'] at h
  rw [limdOrNop, h]
  rfl

theorem srhOrShfm_of_wf {plus : Bool} {adr : BitVec 2} {reg : BitVec 3} {rsa : Reg}
    {lsbs : BitVec 5} {rsb : SReg} (h : (Instr.srh adr reg rsa lsbs rsb).wf plus = true) :
    srhOrShfm adr reg rsa lsbs rsb = .srh adr reg rsa lsbs rsb := by
  rw [Instr.wf, Bool.not_eq_true'] at h
  rw [srhOrShfm, h]
  rfl

theorem encodeNat_shfm (rsa : Reg) (rsb : SReg) :
    encodeNat (.shfm rsa rsb) = encodeNat (.srh 0 0 rsa 0 rsb) := by
  simp [encodeNat]

theorem encodeNat_nop : encodeNat .nop = encodeNat (.limd 36 false 0) := by decide

theorem decodeNat_andi {strict plus : Bool} {rd : Reg} {um : Bool} {a : Abc} {rsa : Reg}
    {si : BitVec 10} : decodeNat strict plus (encAluI10 0b110100 rd um (abcCode a) rsa si) =
      .ok (andiOrTest rd um a rsa si) :=
  decodeNat_aluI10 (by decide) fun _ h => by simp only [decodeNat, h]

theorem decodeNat_ori {strict plus : Bool} {rd : Reg} {um : Bool} {a : Abc} {rsa : Reg}
    {si : BitVec 10} : decodeNat strict plus (encAluI10 0b110101 rd um (abcCode a) rsa si) =
      .ok (oriOrMv rd um a rsa si) :=
  decodeNat_aluI10 (by decide) fun _ h => by simp only [decodeNat, h]

/-- Each instruction's word reads back by the lemma of its format; the pseudo-operations and SHFM are the
words that the decoder of their general instruction names so. -/
theorem decode_encode (strict : Bool) {plus : Bool} (i : Instr) (hwf : i.wf plus = true) :
    decode strict plus (encode i) = .ok i := by
  cases i with
  | add =>
    exact decode_encode_of_fits (EncodeFits.add ..)
      (decodeNat_alu3 (by decide) fun _ h => by simp only [decodeNat, h])
  | sub =>
    exact decode_encode_of_fits (EncodeFits.sub ..)
      (decodeNat_alu3 (by decide) fun _ h => by simp only [decodeNat, h])
  | and =>
    exact decode_encode_of_fits (EncodeFits.and ..)
      (decodeNat_alu3 (by decide) fun _ h => by simp only [decodeNat, h])
  | or =>
    exact decode_encode_of_fits (EncodeFits.or ..)
      (decodeNat_alu3 (by decide) fun _ h => by simp only [decodeNat, h])
  | xor =>
    exact decode_encode_of_fits (EncodeFits.xor ..)
      (decodeNat_alu3 (by decide) fun _ h => by simp only [decodeNat, h])
  | max =>
    exact decode_encode_of_fits (EncodeFits.max ..)
      (decodeNat_alu3C (by decide) fun _ h => by simp only [decodeNat, h])
  | min =>
    exact decode_encode_of_fits (EncodeFits.min ..)
      (decodeNat_alu3C (by decide) fun _ h => by simp only [decodeNat, h])
  | addi =>
    exact decode_encode_of_fits (EncodeFits.addi ..)
      (decodeNat_aluI6 (by decide) fun _ h => by simp only [decodeNat, h])
  | subi =>
    exact decode_encode_of_fits (EncodeFits.subi ..)
      (decodeNat_aluI6 (by decide) fun _ h => by simp only [decodeNat, h])
  | andi =>
    exact decode_encode_of_fits (EncodeFits.andi ..)
      (decodeNat_andi.trans (congrArg Except.ok (andiOrTest_of_wf hwf)))
  | ori =>
    exact decode_encode_of_fits (EncodeFits.ori ..)
      (decodeNat_ori.trans (congrArg Except.ok (oriOrMv_of_wf hwf)))
  | xori =>
    exact decode_encode_of_fits (EncodeFits.xori ..)
      (decodeNat_aluI10 (by decide) fun _ h => by simp only [decodeNat, h])
  | maxi =>
    exact decode_encode_of_fits (EncodeFits.maxi ..)
      (decodeNat_aluI10C (by decide) fun _ h => by simp only [decodeNat, h])
  | mini =>
    exact decode_encode_of_fits (EncodeFits.mini ..)
      (decodeNat_aluI10C (by decide) fun _ h => by simp only [decodeNat, h])
  | cmp => exact decode_encode_of_fits (EncodeFits.cmp ..) (decodeNat_cmpR false)
  | cmpp => exact decode_encode_of_fits (EncodeFits.cmpp ..) (decodeNat_cmpR true)
  | cmpi => exact decode_encode_of_fits (EncodeFits.cmpi ..) (decodeNat_cmpI false)
  | cmppi => exact decode_encode_of_fits (EncodeFits.cmppi ..) (decodeNat_cmpI true)
  | fls => exact decode_encode_of_fits (EncodeFits.fls ..) decodeNat_fls
  | limd =>
    exact decode_encode_of_fits (EncodeFits.limd ..)
      (decodeNat_limd.trans (congrArg Except.ok (limdOrNop_of_wf hwf)))
  | sft =>
    exact decode_encode_of_fits (EncodeFits.sft ..)
      (decodeNat_sftR (by decide) fun _ h => by simp only [decodeNat, h])
  | sfta =>
    exact decode_encode_of_fits (EncodeFits.sfta ..)
      (decodeNat_sftR (by decide) fun _ h => by simp only [decodeNat, h])
  | sftc =>
    exact decode_encode_of_fits (EncodeFits.sftc ..)
      (decodeNat_alu3 (by decide) fun _ h => by simp only [decodeNat, h])
  | sftai => exact decode_encode_of_fits (EncodeFits.sftai ..) decodeNat_sftai
  | sftci => exact decode_encode_of_fits (EncodeFits.sftci ..) decodeNat_sftci
  | sftli => exact decode_encode_of_fits (EncodeFits.sftli ..) (decodeNat_sft5 false)
  | sftri => exact decode_encode_of_fits (EncodeFits.sftri ..) (decodeNat_sft5 true)
  | bi =>
    exact decode_encode_of_fits (EncodeFits.bi ..)
      (decodeNat_branchW (by decide) fun _ h => by simp only [decodeNat, h])
  | bil =>
    exact decode_encode_of_fits (EncodeFits.bil ..)
      (decodeNat_branchW (by decide) fun _ h => by simp only [decodeNat, h])
  | br =>
    exact decode_encode_of_fits (EncodeFits.br ..)
      (decodeNat_branchR (by decide) fun _ h => by simp only [decodeNat, h])
  | brl =>
    exact decode_encode_of_fits (EncodeFits.brl ..)
      (decodeNat_branchR (by decide) fun _ h => by simp only [decodeNat, h])
  | bf =>
    exact decode_encode_of_fits (EncodeFits.bf ..)
      (decodeNat_branchR (by decide) fun _ h => by simp only [decodeNat, h])
  | bfl =>
    exact decode_encode_of_fits (EncodeFits.bfl ..)
      (decodeNat_branchR (by decide) fun _ h => by simp only [decodeNat, h])
  | popc => exact decode_encode_of_fits (EncodeFits.popc ..) decodeNat_popc
  | popf => exact decode_encode_of_fits (EncodeFits.popf ..) decodeNat_popf
  | pushc => exact decode_encode_of_fits (EncodeFits.pushc ..) decodeNat_pushc
  | pushf => exact decode_encode_of_fits (EncodeFits.pushf ..) decodeNat_pushf
  | dma1r =>
    exact decode_encode_of_fits (EncodeFits.dma1r ..)
      ((decodeNat_dma1 (by decide) row_dma1r).1 _ (count_wf.1 hwf))
  | dma1w =>
    exact decode_encode_of_fits (EncodeFits.dma1w ..)
      ((decodeNat_dma1 (by decide) row_dma1w).1 _ (count_wf.1 hwf))
  | dma2r =>
    exact decode_encode_of_fits (EncodeFits.dma2r ..)
      ((decodeNat_dma2 (by decide) row_dma2r).1 _ (count_wf.1 hwf))
  | dma2w =>
    exact decode_encode_of_fits (EncodeFits.dma2w ..)
      ((decodeNat_dma2 (by decide) row_dma2w).1 _ (count_wf.1 hwf))
  | dma1rPlus =>
    exact decode_encode_of_fits (EncodeFits.dma1rPlus ..)
      ((decodeNat_dma1 (by decide) row_dma1r).2 _ hwf)
  | dma1wPlus =>
    exact decode_encode_of_fits (EncodeFits.dma1wPlus ..)
      ((decodeNat_dma1 (by decide) row_dma1w).2 _ hwf)
  | dma2rPlus =>
    exact decode_encode_of_fits (EncodeFits.dma2rPlus ..)
      ((decodeNat_dma2 (by decide) row_dma2r).2 _ hwf)
  | dma2wPlus =>
    exact decode_encode_of_fits (EncodeFits.dma2wPlus ..)
      ((decodeNat_dma2 (by decide) row_dma2w).2 _ hwf)
  | lmfm => exact decode_encode_of_fits (EncodeFits.lmfm ..) decodeNat_lmfm
  | shfm =>
    exact decode_encode_of_fits (EncodeFits.shfm ..)
      ((encodeNat_shfm ..).symm ▸ decodeNat_srh)
  | srh =>
    exact decode_encode_of_fits (EncodeFits.srh ..)
      (decodeNat_srh.trans (congrArg Except.ok (srhOrShfm_of_wf hwf)))
  | ld =>
    exact decode_encode_of_fits (EncodeFits.ld ..)
      (decodeNat_load (by decide) fun _ h => by simp only [decodeNat, h])
  | ldd =>
    exact decode_encode_of_fits (EncodeFits.ldd ..)
      (decodeNat_load (by decide) fun _ h => by simp only [decodeNat, h])
  | st => exact decode_encode_of_fits (EncodeFits.st ..) decodeNat_st
  | std => exact decode_encode_of_fits (EncodeFits.std ..) decodeNat_std
  | nop =>
    exact decode_encode_of_fits EncodeFits.nop (encodeNat_nop.symm ▸ decodeNat_limd)
  | mv =>
    exact decode_encode_of_fits (EncodeFits.mv ..)
      (decodeNat_ori (um := false) (a := .none) (si := 0))
  | tset =>
    exact decode_encode_of_fits (EncodeFits.tset ..)
      (decodeNat_andi (rd := 36) (um := false) (a := .bnz))
  | tclr =>
    exact decode_encode_of_fits (EncodeFits.tclr ..)
      (decodeNat_andi (rd := 36) (um := false) (a := .bz))

/-- Settles O1, by the round trip of each instruction. -/
theorem decodeOfEncode : Obligations.DecodeOfEncode :=
  fun strict _ i hwf => decode_encode strict i hwf

end Sys2Proof
end

section
/-!
PROOFS. The undefined words (30 R142): no format's decoder calls a word undefined but those of the Cell
Scheduling System, and the opcode map lacks 18 of the 64 operation codes.
-/
namespace Sys2Proof

/-! ### Decoders that define every word of theirs -/

/-- `d` does not call the word undefined; it may call it reserved. -/
def Defined (d : Decoded) : Prop := d ≠ .error .undefinedOpcode

namespace Defined

theorem of_ok (i : Instr) : Defined (.ok i) := nofun

theorem of_reserved : Defined (.error .reservedEncoding) := nofun

theorem of_ite {c : Prop} [Decidable c] {d e : Decoded} (hd : Defined d) (he : Defined e) :
    Defined (if c then d else e) := by
  split
  · exact hd
  · exact he

theorem of_fixed {strict b : Bool} {d : Decoded} (h : Defined d) : Defined (fixed strict b d) :=
  of_ite of_reserved h

theorem of_withAbc {w : Nat} {k : Abc → Instr} : Defined (withAbc w k) := by
  unfold withAbc
  split
  · exact of_ok _
  · exact of_reserved

end Defined

section
variable (strict plus : Bool) (w : Nat)

@[simp] theorem decodeAlu3_defined (k) : decodeAlu3 w k ≠ .error .undefinedOpcode :=
  Defined.of_withAbc

@[simp] theorem decodeAlu3C_defined (k) : decodeAlu3C w k ≠ .error .undefinedOpcode :=
  Defined.of_ok _

@[simp] theorem decodeAluI6_defined (k) : decodeAluI6 w k ≠ .error .undefinedOpcode :=
  Defined.of_withAbc

@[simp] theorem decodeAluI10_defined (k) : decodeAluI10 w k ≠ .error .undefinedOpcode :=
  Defined.of_withAbc

@[simp] theorem decodeAluI10C_defined (k) : decodeAluI10C w k ≠ .error .undefinedOpcode :=
  Defined.of_ok _

@[simp] theorem decodeCmpR_defined : decodeCmpR strict w ≠ .error .undefinedOpcode :=
  Defined.of_fixed (.of_ite (.of_ok _) (.of_ok _))

@[simp] theorem decodeCmpI_defined : decodeCmpI strict w ≠ .error .undefinedOpcode :=
  Defined.of_fixed (.of_ite (.of_ok _) (.of_ok _))

@[simp] theorem decodeFls_defined : decodeFls strict w ≠ .error .undefinedOpcode :=
  Defined.of_fixed .of_withAbc

@[simp] theorem decodeLimd_defined : decodeLimd strict w ≠ .error .undefinedOpcode :=
  Defined.of_fixed (.of_ok _)

@[simp] theorem decodeSftR_defined (k) : decodeSftR strict w k ≠ .error .undefinedOpcode :=
  Defined.of_fixed .of_withAbc

@[simp] theorem decodeSftai_defined : decodeSftai strict w ≠ .error .undefinedOpcode :=
  Defined.of_fixed .of_withAbc

@[simp] theorem decodeSftci_defined : decodeSftci strict w ≠ .error .undefinedOpcode :=
  Defined.of_fixed .of_withAbc

@[simp] theorem decodeSft5_defined : decodeSft5 w ≠ .error .undefinedOpcode :=
  Defined.of_withAbc

@[simp] theorem decodeBranchW_defined (k) : decodeBranchW w k ≠ .error .undefinedOpcode := by
  unfold decodeBranchW
  split
  · exact Defined.of_ok _
  · exact Defined.of_reserved

@[simp] theorem decodeBranchR_defined (k) : decodeBranchR strict w k ≠ .error .undefinedOpcode := by
  refine Defined.of_fixed ?_
  split
  · exact .of_ok _
  · exact .of_reserved

@[simp] theorem decodeDma1_defined (k kp) : decodeDma1 plus w k kp ≠ .error .undefinedOpcode :=
  Defined.of_ite (.of_ok _) (.of_ok _)

@[simp] theorem decodeDma2_defined (k kp) :
    decodeDma2 strict plus w k kp ≠ .error .undefinedOpcode :=
  Defined.of_fixed (.of_ite (.of_ok _) (.of_ok _))

@[simp] theorem decodeLmfm_defined : decodeLmfm strict w ≠ .error .undefinedOpcode :=
  Defined.of_fixed (.of_ok _)

@[simp] theorem decodeSrh_defined : decodeSrh strict w ≠ .error .undefinedOpcode :=
  Defined.of_fixed (.of_ok _)

@[simp] theorem decodeLoad_defined (k) : decodeLoad strict w k ≠ .error .undefinedOpcode :=
  Defined.of_fixed (.of_ok _)

@[simp] theorem decodeSt_defined : decodeSt strict w ≠ .error .undefinedOpcode :=
  Defined.of_fixed (.of_ok _)

@[simp] theorem decodeStd_defined : decodeStd strict w ≠ .error .undefinedOpcode :=
  Defined.of_fixed (.of_ok _)

/-! ### The Cell Scheduling sub-operations (R160) -/

@[simp] theorem decodePush_undefined :
    decodePush strict w = .error .undefinedOpcode ↔ 2 ≤ fld w 18 16 := by
  unfold decodePush
  split
  case h_3 h0 h1 =>
    rw [imp_false] at h0 h1
    exact iff_of_true rfl (by omega)
  all_goals exact iff_of_false (Defined.of_fixed (.of_ok _)) (by omega)

@[simp] theorem decodePop_undefined :
    decodePop strict w = .error .undefinedOpcode ↔ 2 ≤ fld w 18 16 := by
  unfold decodePop
  split
  case h_3 h0 h1 =>
    rw [imp_false] at h0 h1
    exact iff_of_true rfl (by omega)
  all_goals exact iff_of_false (Defined.of_fixed (.of_ok _)) (by omega)

/-! ### The opcode map (R141) -/

/-- The operation codes without an instruction (R142). -/
def undefinedCodes : List Nat := [6, 7, 10, 11, 12, 13, 14, 15, 20, 22, 33, 35, 37, 39, 40, 44, 51, 55]

theorem decodeNat_undefined : decodeNat strict plus w = .error .undefinedOpcode ↔
    fld w 31 26 ∈ undefinedCodes ∨ (fld w 31 26 / 2 = 4 ∧ 2 ≤ fld w 18 16) := by
  unfold decodeNat
  split
  case h_47 =>
    have := fld_lt w 31 26
    refine iff_of_true rfl (.inl ?_)
    simp only [imp_false] at *
    simp only [undefinedCodes, List.mem_cons, List.not_mem_nil]
    omega
  all_goals
    rename_i hop
    simp [hop, undefinedCodes]
end

namespace Machine

theorem toNat_extractLsb'_eq_fld (w : Word) (hi lo : Nat) :
    (w.extractLsb' lo (hi + 1 - lo)).toNat = fld w.toNat hi lo := by
  rw [BitVec.extractLsb'_toNat, Nat.shiftRight_eq_div_pow, fld]

theorem decodeAt_undefined {s : State} {w : Word}
    (h : decode s.cfg.strictReserved (modeVal s 5) w = .error .undefinedOpcode) :
    decodeAt s w = .error (.fault .undefinedOpcode) := by
  unfold decodeAt decodeIn
  rw [h]
  rfl

/-- Settles O3: the words are counted by `decodeNat_undefined`. -/
theorem undefinedOpcodes : Obligations.UndefinedOpcodes := by
  unfold Obligations.UndefinedOpcodes
  intro strict plus w
  refine ⟨?_, fun s h => decodeAt_undefined h⟩
  have hcode : (w.extractLsb' 26 6).toNat = fld w.toNat 31 26 := toNat_extractLsb'_eq_fld w 31 26
  have hpair : (w.extractLsb' 27 5).toNat = fld w.toNat 31 26 / 2 := by
    rw [← dma_code rfl]
    exact toNat_extractLsb'_eq_fld w 31 27
  have hsub : (w.extractLsb' 16 3).toNat = fld w.toNat 18 16 := toNat_extractLsb'_eq_fld w 18 16
  rw [hcode, hpair, hsub]
  exact decodeNat_undefined ..

end Machine
end Sys2Proof
end

section
/-!
PROOFS. The branch of an ALU instruction (30 R154, R155; 40 R183 to R186): what each condition says of the
result or of the operands, the flow queue of a branch, and the stops of the sign and compare conditions
under modulo arithmetic.
-/
namespace Sys2Proof.Machine

/-! ### The arithmetic conditions (40 R183) -/

theorem lowMask_toNat {k : Nat} (hk : k ≤ 16) : (lowMask k).toNat = 2 ^ k - 1 := by
  have : 2 ^ k ≤ 2 ^ 16 := Nat.pow_le_pow_right (by decide) hk
  rw [lowMask, BitVec.toNat_ofNat, Nat.mod_eq_of_lt (by omega)]

/-- The zero test looks at the low `k` bits. -/
theorem lowBits_zero {k : Nat} (hk : k ≤ 16) (res : Half) :
    (res &&& lowMask k == 0) = true ↔ res.toNat % 2 ^ k = 0 := by
  rw [beq_iff_eq, ← BitVec.toNat_inj, BitVec.toNat_and, lowMask_toNat hk,
    Nat.and_two_pow_sub_one_eq_mod]
  rfl

theorem msb_true (res : Half) : res.msb = true ↔ res.toInt < 0 := by
  rw [BitVec.msb_eq_toInt, decide_eq_true_iff]

theorem abcHolds_bgez (k : Nat) (res : Half) (ovf : Bool) :
    abcHolds .bgez k res ovf = true ↔ 0 ≤ res.toInt := by
  rw [← not_lt, ← msb_true, Bool.not_eq_true]
  exact iff_of_eq (Bool.not_eq_true' _)

theorem abcHolds_blez (res : Half) (ovf : Bool) :
    abcHolds .blez 16 res ovf = true ↔ res.toInt ≤ 0 := by
  have hzero : res.toNat % 2 ^ 16 = 0 ↔ res.toInt = 0 := by
    rw [Nat.mod_eq_of_lt res.isLt, BitVec.toInt_eq_toNat_cond]
    have := res.isLt
    split <;> omega
  calc abcHolds .blez 16 res ovf = true
      ↔ res.msb = true ∨ (res &&& lowMask 16 == 0) = true := Bool.or_eq_true_iff
    _ ↔ res.toInt < 0 ∨ res.toInt = 0 := by rw [msb_true, lowBits_zero le_rfl, hzero]
    _ ↔ res.toInt ≤ 0 := le_iff_lt_or_eq.symm

theorem abcHolds_bnz {k : Nat} (hk : k ≤ 16) (res : Half) (ovf : Bool) :
    abcHolds .bnz k res ovf = true ↔ res.toNat % 2 ^ k ≠ 0 := by
  rw [Ne, ← lowBits_zero hk, Bool.not_eq_true]
  exact iff_of_eq (Bool.not_eq_true' _)

theorem abcHolds_bno (k : Nat) (res : Half) (ovf : Bool) :
    abcHolds .bno k res ovf = true ↔ ovf = false :=
  iff_of_eq (Bool.not_eq_true' _)

/-! ### The compare conditions (40 R184, R201) -/

theorem compare3_gt (a b : Half) : compare3 a b = .gt ↔ b.toNat < a.toNat := by
  unfold compare3
  split_ifs <;> simp_all

theorem compare3_lt (a b : Half) : compare3 a b = .lt ↔ a.toNat < b.toNat := by
  unfold compare3
  split_ifs <;> simp_all
  omega

theorem compare3_eq (a b : Half) : compare3 a b = .eq ↔ a = b := by
  rw [← BitVec.toNat_inj]
  unfold compare3
  split_ifs <;> simp <;> omega

/-! ### The stops under modulo arithmetic (40 R183, R184) -/

/-- A fault of the instruction's own fields comes before every other check (60 R523). -/
theorem runAlu_pre_fault {s : State} {o : AluOp} {f : Fault} (h : o.pre = .error (.fault f)) :
    runAlu s o = .fault f := by
  unfold runAlu aluCheck
  rw [h]
  rfl

theorem modWidth_ne {modx : BitVec 4} (h : modx ≠ 15) : modWidth modx ≠ 16 := by
  intro e
  exact h (BitVec.eq_of_toNat_eq (Nat.succ.inj e))

theorem abcCheck_fault {abc : Abc} {k : Nat} (habc : abc = .bgez ∨ abc = .blez ∨ abc = .blz)
    (hk : k ≠ 16) : abcCheck abc k = .error (.fault .moduloSignBranch) := by
  have hsign : abcSign abc = true := by rcases habc with rfl | rfl | rfl <;> rfl
  simp [abcCheck, hsign, hk, raiseIf]

theorem cmpCodeCheck_fault {s : State} {cc : BitVec 3} {k : Nat} (hcc : (cmpCond s cc).isSome = true)
    (hk : k ≠ 16) : cmpCodeCheck s cc k = .error (.fault .moduloSignBranch) := by
  have hne : cc ≠ 0 := by
    rintro rfl
    exact absurd hcc (by simp [cmpCond])
  have hnone : (cmpCond s cc).isNone = false := by rw [← Option.not_isSome, hcc]; rfl
  refine seq_ok_left (raiseIf_false (by rw [hnone, Bool.and_false])) ?_
  have hcode : (cc != 0 && k != 16) = true := by
    rw [bne_iff_ne.2 hne, bne_iff_ne.2 hk]; rfl
  rw [raiseIf, if_pos hcode]

theorem arith_stops {s : State} {rd : Reg} {um ae : Bool} {abc : Abc} {srcs : List Reg}
    {modx : BitVec 4} {a alu : Half} {ovf : Option Bool}
    (habc : abc = .bgez ∨ abc = .blez ∨ abc = .blz) (hm : modx ≠ 15) :
    runAlu s (arithOp s rd um abc srcs (modWidth modx) ae a alu ovf) = .fault .moduloSignBranch :=
  runAlu_pre_fault (abcCheck_fault habc (modWidth_ne hm))

theorem extreme_stops {s : State} {rd : Reg} {um ae : Bool} {cc : BitVec 3} {srcs : List Reg}
    {modx : BitVec 4} {a b win : Half} (hcc : (cmpCond s cc).isSome = true) (hm : modx ≠ 15) :
    runAlu s (extremeOp s rd um cc srcs (modWidth modx) ae a b win) = .fault .moduloSignBranch :=
  runAlu_pre_fault (cmpCodeCheck_fault hcc (modWidth_ne hm))

/-! ### The conditions, the codes and the flow put together -/

theorem abcHolds_iff {k : Nat} (hk : k ≤ 16) (res : Half) (ovf : Bool) :
    (abcHolds .bgez k res ovf = true ↔ 0 ≤ res.toInt) ∧
    (abcHolds .bz k res ovf = true ↔ res.toNat % 2 ^ k = 0) ∧
    (abcHolds .blez 16 res ovf = true ↔ res.toInt ≤ 0) ∧
    (abcHolds .blz k res ovf = true ↔ res.toInt < 0) ∧
    (abcHolds .bnz k res ovf = true ↔ res.toNat % 2 ^ k ≠ 0) ∧
    (abcHolds .bno k res ovf = true ↔ ovf = false) :=
  ⟨abcHolds_bgez .., lowBits_zero hk _, abcHolds_blez .., msb_true _, abcHolds_bnz hk .., abcHolds_bno ..⟩

theorem cmpHolds_compare3 (a b : Half) :
    (cmpHolds .bagb (compare3 a b) = true ↔ b.toNat < a.toNat) ∧
    (cmpHolds .bageb (compare3 a b) = true ↔ b.toNat ≤ a.toNat) ∧
    (cmpHolds .baeb (compare3 a b) = true ↔ a = b) ∧
    (cmpHolds .baleb (compare3 a b) = true ↔ a.toNat ≤ b.toNat) ∧
    (cmpHolds .balb (compare3 a b) = true ↔ a.toNat < b.toNat) ∧
    (cmpHolds .baneb (compare3 a b) = true ↔ a ≠ b) := by
  have heq : a = b ↔ a.toNat = b.toNat := BitVec.toNat_inj.symm
  simp only [cmpHolds, Bool.or_eq_true, beq_iff_eq, compare3_gt, compare3_lt, compare3_eq, heq, Ne]
  exact ⟨trivial, by omega, trivial, by omega, trivial, by omega⟩

/-- The default compare codes (decision D4). -/
theorem cmpBranch_standard {s : State} (hs : s.cfg = Config.standard) (c : CmpState) (ae : Bool) :
    cmpBranch s 0 c ae = none ∧
    cmpBranch s 1 c ae = some (cmpHolds .bageb c, ae) ∧
    cmpBranch s 2 c ae = some (cmpHolds .bagb c, ae) ∧
    cmpBranch s 3 c ae = some (cmpHolds .baeb c, ae) ∧
    cmpBranch s 4 c ae = some (cmpHolds .baleb c, ae) ∧
    cmpBranch s 5 c ae = some (cmpHolds .balb c, ae) ∧
    cmpBranch s 6 c ae = some (cmpHolds .baneb c, ae) ∧ cmpCond s 7 = none := by
  unfold cmpBranch cmpCond
  rw [hs]
  exact ⟨rfl, rfl, rfl, rfl, rfl, rfl, rfl, rfl⟩

/-- After N+3 an Always Execute branch that is not taken goes on as the parameter says (40 R186). -/
theorem aeResume_cases (s : State) :
    (aeResume s = [] ∨ aeResume s = [(s.pc + 6, .seq)]) ∧
      (s.cfg.aeFallthrough = .reexecute → aeResume s = []) ∧
      (s.cfg.aeFallthrough = .skip → aeResume s = [(s.pc + 6, .seq)]) := by
  unfold aeResume
  cases s.cfg.aeFallthrough with
  | reexecute => simp
  | skip => simp
  | unset => cases drawBit s 10 <;> simp

/-- Settles O16: the conditions by `abcHolds_iff` and `cmpHolds_compare3`, the stops by the check of the
instruction's own fields. -/
theorem aluBranches : Obligations.AluBranches := by
  unfold Obligations.AluBranches
  refine ⟨fun k res ovf ae abc _ hk => ⟨⟨rfl, fun habc => if_neg habc⟩, abcHolds_iff hk res ovf⟩,
    cmpHolds_compare3, fun s c ae hs => cmpBranch_standard hs c ae,
    fun s => ⟨rfl, rfl, rfl, aeResume s, rfl, aeResume_cases s⟩, ?_⟩
  intro s rd rsa um ae abc cc modx rsb usi amt hm
  refine ⟨fun habc => ?_, fun hcc => ⟨extreme_stops hcc hm, extreme_stops hcc hm⟩⟩
  exact ⟨arith_stops habc hm, arith_stops habc hm, arith_stops habc hm, arith_stops habc hm,
    arith_stops habc hm, arith_stops habc hm, arith_stops habc hm, arith_stops habc hm,
    runAlu_pre_fault (abcCheck_fault habc (modWidth_ne hm)), arith_stops habc hm,
    arith_stops habc hm, arith_stops habc hm, arith_stops habc hm, arith_stops habc hm⟩

end Sys2Proof.Machine
end

section
/-!
PROOFS. The values of the ALU instructions, apart from the machine: the modulo merge (40 R182), the
Overflow formulas (40 R188) and the find of FLS (40 R205).
-/
namespace Sys2Proof.Machine

/-! ### The modulo merge (40 R182) -/

theorem lowMask_getLsbD (k : Nat) {i : Nat} (hi : i < 16) :
    (lowMask k).getLsbD i = decide (i < k) := by
  rw [lowMask, BitVec.getLsbD_ofNat, Nat.testBit_two_pow_sub_one, decide_eq_true hi, Bool.true_and]

theorem modMerge_getLsbD (k : Nat) (a alu : Half) {i : Nat} (hi : i < 16) :
    (modMerge k a alu).getLsbD i = if i < k then alu.getLsbD i else a.getLsbD i := by
  simp only [modMerge, BitVec.getLsbD_or, BitVec.getLsbD_and, BitVec.getLsbD_not,
    lowMask_getLsbD k hi, hi]
  by_cases h : i < k <;> simp [h]

/-- Below the modulo width the merge is the ALU result. -/
theorem modMerge_toNat_mod {k : Nat} (hk : k ≤ 16) (a alu : Half) :
    (modMerge k a alu).toNat % 2 ^ k = alu.toNat % 2 ^ k := by
  refine Nat.eq_of_testBit_eq fun i => ?_
  rw [Nat.testBit_mod_two_pow, Nat.testBit_mod_two_pow]
  by_cases h : i < k
  · have hbit := modMerge_getLsbD k a alu (i := i) (by omega)
    rw [if_pos h] at hbit
    exact congrArg (decide (i < k) && ·) hbit
  · simp [h]

/-- Without modulo the merge is the ALU result. -/
@[simp] theorem modMerge_full (a alu : Half) : modMerge 16 a alu = alu := by
  refine BitVec.eq_of_getLsbD_eq fun i hi => ?_
  rw [modMerge_getLsbD 16 a alu hi, if_pos hi]

/-- Settles O6: bit by bit by `modMerge_getLsbD`; a k-bit sum is the 16-bit sum cut to k bits. -/
theorem moduloMerge : Obligations.ModuloMerge := by
  unfold Obligations.ModuloMerge
  intro k a b alu _ hk
  refine ⟨fun i hi => modMerge_getLsbD k a alu hi, ?_⟩
  calc (modMerge k a (a + b)).toNat % 2 ^ k
      = (a + b).toNat % 2 ^ k := modMerge_toNat_mod hk a (a + b)
    _ = (a.toNat + b.toNat) % 2 ^ 16 % 2 ^ k := by rw [BitVec.toNat_add]
    _ = (a.toNat + b.toNat) % 2 ^ k := Nat.mod_mod_of_dvd _ (Nat.pow_dvd_pow 2 hk)

/-! ### The Overflow formulas (40 R188) -/

theorem ovfAdd_eq_saddOverflow (a b : Half) : ovfAdd a b (a + b) = a.saddOverflow b := by
  rw [BitVec.saddOverflow_eq]
  rfl

theorem ovfSub_eq_ssubOverflow (a b : Half) : ovfSub a b (a - b) = a.ssubOverflow b := by
  rw [BitVec.ssubOverflow_eq, ovfSub]
  cases a.msb <;> cases b.msb <;> cases (a - b).msb <;> rfl

theorem ovfAdd_iff (a b : Half) : ovfAdd a b (a + b) = true ↔
    a.toInt + b.toInt < -32768 ∨ 32767 < a.toInt + b.toInt := by
  rw [ovfAdd_eq_saddOverflow, BitVec.saddOverflow, Bool.or_eq_true, decide_eq_true_iff,
    decide_eq_true_iff]
  omega

theorem ovfSub_iff (a b : Half) : ovfSub a b (a - b) = true ↔
    a.toInt - b.toInt < -32768 ∨ 32767 < a.toInt - b.toInt := by
  rw [ovfSub_eq_ssubOverflow, BitVec.ssubOverflow, Bool.or_eq_true, decide_eq_true_iff,
    decide_eq_true_iff]
  omega

/-- A halfword's signed value is representable. -/
theorem toInt_half_bounds (x : Half) : -32768 ≤ x.toInt ∧ x.toInt ≤ 32767 :=
  ⟨BitVec.le_toInt x, Int.le_of_lt_add_one BitVec.toInt_lt⟩

/-- Without overflow the sum is exact, and an exact sum is representable. -/
theorem ovfAdd_exact (a b : Half) :
    ovfAdd a b (a + b) = false ↔ (a + b).toInt = a.toInt + b.toInt := by
  refine ⟨fun h => BitVec.toInt_add_of_not_saddOverflow ?_, fun h => ?_⟩
  · rw [← ovfAdd_eq_saddOverflow, h]
    exact Bool.false_ne_true
  · have := toInt_half_bounds (a + b)
    rw [← Bool.not_eq_true, ovfAdd_iff]
    omega

/-- Without overflow the difference is exact, and an exact difference is representable. -/
theorem ovfSub_exact (a b : Half) :
    ovfSub a b (a - b) = false ↔ (a - b).toInt = a.toInt - b.toInt := by
  refine ⟨fun h => BitVec.toInt_sub_of_not_ssubOverflow ?_, fun h => ?_⟩
  · rw [← ovfSub_eq_ssubOverflow, h]
    exact Bool.false_ne_true
  · have := toInt_half_bounds (a - b)
    rw [← Bool.not_eq_true, ovfSub_iff]
    omega

/-- Settles O7: the formulas are Lean's own signed overflow of halfwords. -/
theorem overflowMeaning : Obligations.OverflowMeaning := by
  unfold Obligations.OverflowMeaning
  exact fun a b => ⟨ovfAdd_iff a b, ovfSub_iff a b, ovfAdd_exact a b, ovfSub_exact a b⟩

/-! ### The find of FLS (40 R205) -/

/-- A search from the top that finds nothing has looked at every number. -/
theorem find_top_none {p : Nat → Bool} {n : Nat} (h : (List.range n).reverse.find? p = none) :
    ∀ j, j < n → p j = false := by
  simpa using h

/-- A search from the top finds the largest number there is. -/
theorem find_top_some {p : Nat → Bool} {i n : Nat}
    (h : (List.range n).reverse.find? p = some i) :
    i < n ∧ p i = true ∧ ∀ j, i < j → j < n → p j = false := by
  induction n with
  | zero => cases h
  | succ n ih =>
    rw [List.range_succ, List.reverse_concat, List.find?_cons] at h
    split at h
    · rename_i hp
      cases h
      exact ⟨Nat.lt_succ_self _, hp, fun j hj hjn => absurd hj (by omega)⟩
    · rename_i hp
      obtain ⟨hin, hpi, hmax⟩ := ih h
      refine ⟨Nat.lt_succ_of_lt hin, hpi, fun j hj hjn => ?_⟩
      rcases Nat.lt_succ_iff_lt_or_eq.1 hjn with hlt | rfl
      · exact hmax j hj hlt
      · exact hp

/-- FLS gives the index of the most significant set bit of an operand that has one. -/
theorem findLastSet_top {x : Half} (hx : x ≠ 0) :
    ∃ i, i < 16 ∧ findLastSet x = BitVec.ofNat 16 i ∧ x.getLsbD i = true ∧
      ∀ j, i < j → x.getLsbD j = false := by
  unfold findLastSet
  cases hfind : (List.range 16).reverse.find? fun i => x.getLsbD i with
  | none =>
    refine absurd (BitVec.eq_of_getLsbD_eq fun i hi => ?_) hx
    simpa using find_top_none hfind i hi
  | some i =>
    obtain ⟨hi, hbit, hmax⟩ := find_top_some hfind
    refine ⟨i, hi, rfl, hbit, fun j hj => ?_⟩
    by_cases h16 : j < 16
    · exact hmax j hj h16
    · exact BitVec.getLsbD_of_ge x j (by omega)

end Sys2Proof.Machine
end

section
/-!
PROOFS. What the ALU instructions other than the shifts do when they are ready (40 R197 to R212; 41 R238 to
R243): the instructions of a family are one `AluOp`, with the operands, the result and the flags that they
differ in.
-/
namespace Sys2Proof.Machine

/-! ### The arithmetic class (40 R180, R183, R188) -/

/-- The OVF that an instruction of the arithmetic class leaves. -/
theorem ovfIf_getD (k : Nat) (v old : Bool) : (ovfIf k v).getD old = if k = 16 then v else old := by
  unfold ovfIf
  split <;> rfl

/-- An instruction that runs as an arithmetic operation computes its merged result. -/
theorem computes_of_arithOp {i : Instr} {s : State} {srcs : List Reg} {rd : Reg} {um : Bool}
    {abc : Abc} {k : Nat} {ae : Bool} {a alu : Half} {ovf : Option Bool} (hp : PendingForm s)
    (hsign : SignTest abc k)
    (hexec : exec i s = runAlu s (arithOp s rd um abc srcs k ae a alu ovf)) :
    Computes i s srcs rd um abc k ae (modMerge k a alu) (ovf.getD s.ovf) := by
  intro hready
  obtain ⟨t, ht, hdone⟩ := runAlu_ready (o := arithOp s rd um abc srcs k ae a alu ovf) hp rfl
    (abcCheck_ok hsign) rfl hready
  exact ⟨t, hexec.trans ht, hdone⟩

/-- An instruction without an Overflow leaves OVF as it was. -/
theorem computes_merged {i : Instr} {s : State} {srcs : List Reg} {rd : Reg} {um : Bool}
    {abc : Abc} {k : Nat} {ae : Bool} {a alu : Half} (hp : PendingForm s) (hsign : SignTest abc k)
    (hexec : exec i s = runAlu s (arithOp s rd um abc srcs k ae a alu none)) :
    Computes i s srcs rd um abc k ae (modMerge k a alu) s.ovf :=
  computes_of_arithOp hp hsign hexec

/-- Without modulo and without an Overflow the result is that of the ALU, and OVF stays. -/
theorem computes_full {i : Instr} {s : State} {srcs : List Reg} {rd : Reg} {um : Bool}
    {abc : Abc} {ae : Bool} {a alu : Half} (hp : PendingForm s)
    (hexec : exec i s = runAlu s (arithOp s rd um abc srcs 16 ae a alu none)) :
    Computes i s srcs rd um abc 16 ae alu s.ovf := by
  simpa using computes_merged hp (signTest_full abc) hexec

/-- An instruction with an Overflow computes it without modulo only. -/
theorem computes_ovfIf {i : Instr} {s : State} {srcs : List Reg} {rd : Reg} {um : Bool}
    {abc : Abc} {k : Nat} {ae : Bool} {a alu : Half} {v : Bool} (hp : PendingForm s)
    (hsign : SignTest abc k)
    (hexec : exec i s = runAlu s (arithOp s rd um abc srcs k ae a alu (ovfIf k v))) :
    Computes i s srcs rd um abc k ae (modMerge k a alu) (if k = 16 then v else s.ovf) :=
  ovfIf_getD k v s.ovf ▸ computes_of_arithOp hp hsign hexec

/-- Settles O8, by `computes_ovfIf`. -/
theorem addSubResult : Obligations.AddSubResult := by
  unfold Obligations.AddSubResult
  intro s rd rsa um ae abc modx rsb usi hp hsign
  exact ⟨computes_ovfIf hp hsign rfl, computes_ovfIf hp hsign rfl, computes_ovfIf hp hsign rfl,
    computes_ovfIf hp hsign rfl⟩

/-- MV is an ORI of zero. -/
theorem or_sext10_zero (a : Half) : a ||| sext10 0 = a := BitVec.or_zero

/-- Settles O9: the register forms merge, the immediate forms do not, and MV ORs with zero. -/
theorem logicResult : Obligations.LogicResult := by
  unfold Obligations.LogicResult
  intro s rd rsa um ae abc modx rsb si hp
  refine ⟨fun hsign => ⟨computes_merged hp hsign rfl, computes_merged hp hsign rfl,
    computes_merged hp hsign rfl⟩, computes_full hp rfl, computes_full hp rfl,
    computes_full hp rfl, ?_⟩
  have hmv := computes_full (i := .mv rd rsa) (alu := readVal .alu s rsa ||| sext10 0) hp rfl
  rwa [or_sext10_zero] at hmv

/-! ### The MAX and MIN family (40 R184, R207) -/

/-- An instruction that runs as an operation of the MAX and MIN family selects its operand. -/
theorem selects_of_extremeOp {i : Instr} {s : State} {srcs : List Reg} {rd : Reg} {um : Bool}
    {cc : BitVec 3} {k : Nat} {ae : Bool} {a b win : Half} (hp : PendingForm s)
    (htest : CompareTest s cc k)
    (hexec : exec i s = runAlu s (extremeOp s rd um cc srcs k ae a b win)) :
    Selects i s srcs rd um cc ae (modMerge k a win) (compare3 a b) := by
  intro hready
  obtain ⟨t, ht, hdone, hovf, -⟩ := runAlu_ready (o := extremeOp s rd um cc srcs k ae a b win) hp
    rfl (cmpCodeCheck_ok htest) rfl hready
  exact ⟨t, hexec.trans ht, hdone, hovf⟩

/-- Without modulo the selected operand is the result. -/
theorem selects_full {i : Instr} {s : State} {srcs : List Reg} {rd : Reg} {um : Bool}
    {cc : BitVec 3} {ae : Bool} {a b win : Half} (hp : PendingForm s) (htest : CompareTest s cc 16)
    (hexec : exec i s = runAlu s (extremeOp s rd um cc srcs 16 ae a b win)) :
    Selects i s srcs rd um cc ae win (compare3 a b) := by
  simpa using selects_of_extremeOp hp htest hexec

/-- The larger operand, by the relation or by the numbers. -/
theorem max_by_compare3 (a b : Half) :
    (if compare3 a b = .lt then b else a) = if a.toNat < b.toNat then b else a :=
  if_congr (compare3_lt a b) rfl rfl

/-- The smaller operand, by the relation or by the numbers. -/
theorem min_by_compare3 (a b : Half) :
    (if compare3 a b = .gt then b else a) = if b.toNat < a.toNat then b else a :=
  if_congr (compare3_gt a b) rfl rfl

/-- Settles O10: each instruction is an `extremeOp` of the operand that the relation picks. -/
theorem maxMinResult : Obligations.MaxMinResult := by
  unfold Obligations.MaxMinResult
  intro s rd rsa um ae cc modx rsb si hp
  dsimp only
  simp only [← max_by_compare3, ← min_by_compare3]
  exact ⟨fun htest => ⟨selects_of_extremeOp hp htest rfl, selects_of_extremeOp hp htest rfl⟩,
    fun htest => ⟨selects_full hp htest rfl, selects_full hp htest rfl⟩⟩

/-! ### The compares (40 R201 to R204) -/

/-- An instruction that runs as a compare logs its relation. -/
theorem compares_of_compareOp {i : Instr} {s : State} {srcs : List Reg} {cc : BitVec 3} {ae : Bool}
    {c : CmpState} (htest : CompareTest s cc 16)
    (hexec : exec i s = runAlu s (compareOp s cc srcs ae c)) : Compares i s srcs cc ae c := by
  intro hready
  obtain ⟨t, ht, hdone⟩ := runCompare_ready (o := compareOp s cc srcs ae c) rfl rfl
    (cmpCodeCheck_ok htest) rfl rfl rfl hready
  exact ⟨t, hexec.trans ht, hdone⟩

/-- Settles O11, by `compares_of_compareOp`. -/
theorem compareResult : Obligations.CompareResult := by
  unfold Obligations.CompareResult
  intro s rsa ae cc rsb si htest
  exact ⟨compares_of_compareOp htest rfl, compares_of_compareOp htest rfl,
    compares_of_compareOp htest rfl, compares_of_compareOp htest rfl⟩

/-! ### FLS, LIMD and NOP (40 R205, R206; 41 R242) -/

theorem computes_limd {s : State} {rd : Reg} {um : Bool} {li : Half} (hp : PendingForm s) :
    Computes (.limd rd um li) s [] rd um .none 16 false li s.ovf :=
  fun hready => runAlu_ready (o := limdOp rd um li) hp rfl rfl rfl hready

/-- An ALU instruction that writes R36 and no flag passes and changes nothing else: the Bit Bucket
discards its result (10 R35). -/
theorem runAlu_discards {s : State} {o : AluOp} (hrd : o.rd = some 36) (hum : o.um = false)
    (hovf : o.ovf = none) (hcmp : o.cmp = none) (hpre : o.pre = .ok ())
    (hval : o.value = .ok ()) (h : AluReady s o.srcs 36 false o.res o.branch) :
    ∃ t, runAlu s o = .next t ∧ Passed s t o.srcs [] (aluNextQueue s o.branch) ∧ SameJobs s t ∧
      t = passing s t := by
  have hwrite : aluWrite s (aluMid s o) o = aluMid s o := by
    unfold aluWrite
    rw [hrd, hum]
    rfl
  refine ⟨_, runAlu_ok (aluCheck_of_ready hrd hpre hval (hum ▸ h)), ?_⟩
  rw [aluNext_eq, hwrite]
  refine ⟨passed_advance _ ?_ ?_ ?_ ?_ ?_ ?_ ?_ ?_ ?_ ?_ ?_ ?_,
    sameJobs_age (acc := aluRegs s o) (by simp), (advance_eq_passing _ _).trans ?_⟩
  all_goals simp [passing, hovf, hcmp]

/-- Settles O14: what FLS gives by `findLastSet_top`, and NOP as a LIMD to the Bit Bucket. -/
theorem findLoadNop : Obligations.FindLoadNop := by
  unfold Obligations.FindLoadNop
  refine ⟨⟨rfl, fun x hx => findLastSet_top hx⟩, fun s rd rsa um ae abc li hp => ?_⟩
  exact ⟨computes_full hp rfl, computes_limd hp,
    runAlu_discards (o := limdOp 36 false 0) rfl rfl rfl rfl rfl rfl⟩

end Sys2Proof.Machine
end

section
/-!
PROOFS. Who writes OVF (40 R188): ADD, SUB, ADDI and SUBI without modulo do, and no other instruction and no
agent.
-/
namespace Sys2Proof.Machine

/-! ### The instructions -/

/-- When the checks `r` end well, they end in the state `u`. -/
def EndsIn (r : Check State) (u : State) : Prop := ∀ t, r = .ok t → t = u

theorem EndsIn.pure {u : State} : EndsIn (pure u) u := fun _ => pure_ok

theorem EndsIn.seq {x : Check Unit} {k : Check State} {u : State} (h : EndsIn k u) :
    EndsIn (do x; k) u := fun t e => h t (seq_ok.1 e).2

/-- An instruction whose last state has the OVF of the first leaves OVF as it was: so do a wait and a stuck
SWAN. -/
theorem complete_keeps_ovf {s t u : State} {r : Check State} (hr : EndsIn r u)
    (hu : u.ovf = s.ovf) (h : complete s r = .next t) : t.ovf = s.ovf := by
  rcases complete_next.1 h with h | ⟨-, rfl⟩ | ⟨-, rfl⟩
  · rw [hr t h, hu]
  · rfl
  · rfl

theorem aluNext_ovf (s : State) (o : AluOp) : (aluNext s o).ovf = o.ovf.getD s.ovf := by
  rw [aluNext_eq, aluWrite]
  cases o.rd with
  | none => simp
  | some r => cases o.um <;> simp

theorem runAlu_keeps_ovf {s t : State} {o : AluOp} (ho : o.ovf = none)
    (h : runAlu s o = .next t) : t.ovf = s.ovf :=
  complete_keeps_ovf (.seq .pure) (by rw [aluNext_ovf, ho]; rfl) h

/-- Under modulo an addition or a subtraction does not write OVF, so one that changed it has width 16. -/
theorem runAlu_ovfIf {s t : State} {rd : Reg} {um ae v : Bool} {abc : Abc} {srcs : List Reg}
    {modx : BitVec 4} {a alu : Half} (h : runAlu s (arithOp s rd um abc srcs (modWidth modx) ae a alu
      (ovfIf (modWidth modx) v)) = .next t) (hne : t.ovf ≠ s.ovf) : modx = 15 := by
  by_contra hm
  exact hne (runAlu_keeps_ovf (if_neg (modWidth_ne hm)) h)

theorem runBranch_keeps_ovf {s t : State} {link : Bool} {x : Target} {e : Fin 16} {sense c : Bool}
    {cso : Cso} (h : runBranch s link x e sense c cso = .next t) : t.ovf = s.ovf :=
  complete_keeps_ovf (.seq .pure) (branchNext_done ..).flags.1 h

theorem runCss_keeps_ovf {s t : State} {o : CssIssue} (h : runCss s o = .next t) :
    t.ovf = s.ovf :=
  complete_keeps_ovf (.seq .pure) (by simp [cssNext]) h

theorem runDma_keeps_ovf {s t : State} {o : DmaOp} (h : runDma s o = .next t) : t.ovf = s.ovf :=
  complete_keeps_ovf (.seq .pure) (by simp [dmaNext]) h

theorem runFmStore_keeps_ovf {s t : State} {hold : CrcSel} {regs : List Reg} {src : Reg}
    {a : BitVec 20} (h : runFmStore s hold regs src a = .next t) : t.ovf = s.ovf :=
  complete_keeps_ovf (.seq .pure) (by simp [fmStoreNext]) h

theorem lmfmNext_ovf (s : State) (o : LmfmOp) : (lmfmNext s o).ovf = s.ovf :=
  (lmfmNext_issued s o).passed.flags.1

theorem lsuNext_ovf (s : State) (d : Done) (srcs : List Reg) (o : LsuOp) :
    (lsuNext s d srcs o).ovf = s.ovf := (lsuNext_issued s d srcs o).passed.flags.1

/-- The instructions that may change OVF. -/
theorem exec_changes_ovf {i : Instr} {s t : State} (h : exec i s = .next t)
    (hne : t.ovf ≠ s.ovf) :
    (∃ rd um abc rsa ae rsb, i = .add rd um abc rsa 15 ae rsb) ∨
      (∃ rd um abc rsa ae rsb, i = .sub rd um abc rsa 15 ae rsb) ∨
      (∃ rd um abc rsa usi, i = .addi rd um abc rsa 15 usi) ∨
      (∃ rd um abc rsa usi, i = .subi rd um abc rsa 15 usi) := by
  cases i with
  | add rd um abc rsa modx ae rsb =>
    obtain rfl := runAlu_ovfIf h hne
    exact .inl ⟨_, _, _, _, _, _, rfl⟩
  | sub rd um abc rsa modx ae rsb =>
    obtain rfl := runAlu_ovfIf h hne
    exact .inr (.inl ⟨_, _, _, _, _, _, rfl⟩)
  | addi rd um abc rsa modx usi =>
    obtain rfl := runAlu_ovfIf h hne
    exact .inr (.inr (.inl ⟨_, _, _, _, _, rfl⟩))
  | subi rd um abc rsa modx usi =>
    obtain rfl := runAlu_ovfIf h hne
    exact .inr (.inr (.inr ⟨_, _, _, _, _, rfl⟩))
  | bi => exact absurd (runBranch_keeps_ovf h) hne
  | bil => exact absurd (runBranch_keeps_ovf h) hne
  | br => exact absurd (runBranch_keeps_ovf h) hne
  | brl => exact absurd (runBranch_keeps_ovf h) hne
  | bf => exact absurd (runBranch_keeps_ovf h) hne
  | bfl => exact absurd (runBranch_keeps_ovf h) hne
  | popc => exact absurd (runCss_keeps_ovf h) hne
  | popf => exact absurd (runCss_keeps_ovf h) hne
  | pushc => exact absurd (runCss_keeps_ovf h) hne
  | pushf => exact absurd (runCss_keeps_ovf h) hne
  | dma1r => exact absurd (runDma_keeps_ovf h) hne
  | dma1w => exact absurd (runDma_keeps_ovf h) hne
  | dma2r => exact absurd (runDma_keeps_ovf h) hne
  | dma2w => exact absurd (runDma_keeps_ovf h) hne
  | dma1rPlus => exact absurd (runDma_keeps_ovf h) hne
  | dma1wPlus => exact absurd (runDma_keeps_ovf h) hne
  | dma2rPlus => exact absurd (runDma_keeps_ovf h) hne
  | dma2wPlus => exact absurd (runDma_keeps_ovf h) hne
  | shfm => exact absurd (runFmStore_keeps_ovf h) hne
  | srh => exact absurd (runFmStore_keeps_ovf h) hne
  | lmfm => exact absurd (complete_keeps_ovf (.seq .pure) (lmfmNext_ovf ..) h) hne
  | ld => exact absurd (complete_keeps_ovf (.seq (.seq .pure)) (lsuNext_ovf ..) h) hne
  | ldd => exact absurd (complete_keeps_ovf (.seq (.seq .pure)) (lsuNext_ovf ..) h) hne
  | st =>
    exact absurd (complete_keeps_ovf (.seq (.seq (.seq (.seq (.seq (.seq (.seq .pure)))))))
      (lsuNext_ovf ..) h) hne
  | std =>
    exact absurd (complete_keeps_ovf (.seq (.seq (.seq (.seq (.seq (.seq .pure))))))
      (lsuNext_ovf ..) h) hne
  | _ => exact absurd (runAlu_keeps_ovf rfl h) hne

/-! ### The agents -/

theorem fmcLoadStep_ovf {s t : State} (h : fmcLoadStep s = .ok t) : t.ovf = s.ovf := by
  unfold fmcLoadStep at h
  split at h
  · cases h
  · rename_i j rest _
    split at h
    · cases h
    · obtain ⟨-, h⟩ := seq_ok.1 h
      cases h
      cases j.lnk && j.k == 0 <;> simp

theorem fmcDrainStep_ovf {s t : State} (h : fmcDrainStep s = .ok t) : t.ovf = s.ovf := by
  unfold fmcDrainStep at h
  split at h
  · cases h
  · split at h <;> cases h
    rfl

theorem landAt_ovf {s u : State} {t : Half} {r : Reg} {swap : Bool}
    (h : landAt s t r swap = .ok u) : u.ovf = s.ovf := by
  unfold landAt at h
  split at h
  · cases h
  · obtain ⟨-, h⟩ := seq_ok.1 h
    cases h
    exact writeReg_ovf ..

@[simp] theorem localWrite_ovf (s : State) (t v : Half) : (localWrite s t v).ovf = s.ovf := by
  unfold localWrite
  split <;> rfl

theorem lsuAccess_ovf {s u : State} {o : LsuOp} {left : List LsuOp}
    (h : lsuAccess s o = .ok (u, left)) : u.ovf = s.ovf := by
  unfold lsuAccess at h
  split at h
  case h_1 t rd swap =>
    obtain ⟨v, hv, h⟩ := bind_ok.1 h
    cases h
    exact landAt_ovf hv
  case h_2 t ra rb swap =>
    obtain ⟨v, hv, h⟩ := bind_ok.1 h
    split at h
    · obtain ⟨w, hw, h⟩ := bind_ok.1 h
      cases h
      exact (landAt_ovf hw).trans (landAt_ovf hv)
    · cases h
      exact landAt_ovf hv
  case h_3 t _ rb swap =>
    obtain ⟨v, hv, h⟩ := bind_ok.1 h
    cases h
    exact landAt_ovf hv
  case h_4 t v =>
    cases h
    exact localWrite_ovf ..
  case h_5 t x y =>
    split at h <;> cases h <;> simp
  case h_6 t _ y =>
    cases h
    exact localWrite_ovf ..

theorem lsuStep_ovf {s t : State} (h : lsuStep s = .ok t) : t.ovf = s.ovf := by
  unfold lsuStep at h
  split at h
  · cases h
  · obtain ⟨⟨u, left⟩, ha, h⟩ := bind_ok.1 h
    have hu := lsuAccess_ovf ha
    cases h
    exact hu

theorem cssPerform_ovf {s t : State} {o : CssOp} (h : cssPerform s o = .ok t) :
    t.ovf = s.ovf := by
  unfold cssPerform at h
  split at h
  case h_1 =>
    obtain ⟨-, h⟩ := seq_ok.1 h
    cases h
    rfl
  case h_2 =>
    cases h
    rfl
  case h_3 =>
    obtain ⟨r, -, h⟩ := bind_ok.1 h
    split at h
    · cases h
      rfl
    · obtain ⟨-, h⟩ := seq_ok.1 h
      obtain ⟨-, h⟩ := seq_ok.1 h
      cases h
      exact postWrite_ovf ..
  case h_4 =>
    obtain ⟨r, -, h⟩ := bind_ok.1 h
    split at h <;> cases h <;> rfl

theorem cssStep_ovf {s t : State} (h : cssStep s = .ok t) : t.ovf = s.ovf := by
  unfold cssStep at h
  split at h
  · cases h
  · have hu := cssPerform_ovf h
    exact hu

theorem podApply_ovf {s t : State} {c : DmaCmd} (h : podApply s c = .ok t) : t.ovf = s.ovf := by
  unfold podApply at h
  split at h
  · split at h <;> split at h <;> cases h <;> rfl
  · cases h
    rfl

theorem crcDone_ovf (s : State) (c : DmaCmd) : (crcDone s c).ovf = s.ovf := by
  unfold crcDone setCrcPair
  split <;> rfl

theorem dma1ReadMove_ovf (s : State) (c : DmaCmd) : (dma1ReadMove s c).1.ovf = s.ovf := by
  unfold dma1ReadMove
  dsimp only
  split
  · rfl
  · split <;> rfl

theorem dma1Move_ovf {s t : State} {c d : DmaCmd} (h : dma1Move s c = .ok (t, d)) :
    t.ovf = s.ovf := by
  unfold dma1Move at h
  split at h
  · unfold dma1WriteMove at h
    split at h
    · cases h
    · cases h
      split <;> rfl
  · split at h
    · cases h
      rfl
    · obtain rfl : (dma1ReadMove s c).1 = t := congrArg Prod.fst (Except.ok.inj h)
      exact dma1ReadMove_ovf s c

theorem dma1Step_ovf {s t : State} (h : dma1Step s = .ok t) : t.ovf = s.ovf := by
  unfold dma1Step at h
  split at h
  · cases h
  · split at h
    · cases h
      rfl
    · split at h
      · obtain ⟨⟨u, d⟩, hm, h⟩ := bind_ok.1 h
        have hu := dma1Move_ovf hm
        cases h
        exact hu
      · obtain ⟨u, hp, h⟩ := bind_ok.1 h
        cases h
        exact (podApply_ovf hp).trans (crcDone_ovf ..)

theorem dma2Move_ovf {s t : State} {c d : DmaCmd} (h : dma2Move s c = .ok (t, d)) :
    t.ovf = s.ovf := by
  unfold dma2Move setPort2 at h
  split at h
  · split at h
    · cases h
    · cases h
      split <;> rfl
  · cases h
    rfl

theorem dma2Step_ovf {s t : State} (h : dma2Step s = .ok t) : t.ovf = s.ovf := by
  unfold dma2Step at h
  split at h
  · cases h
  · split at h
    · cases h
      rfl
    · split at h
      · obtain ⟨⟨u, d⟩, hm, h⟩ := bind_ok.1 h
        have hu := dma2Move_ovf hm
        cases h
        exact hu
      · obtain ⟨u, hp, h⟩ := bind_ok.1 h
        have hu := podApply_ovf hp
        cases h
        exact hu

theorem abortStep_ovf {s t : State} (h : abortStep s = .ok t) : t.ovf = s.ovf := by
  unfold abortStep at h
  split at h
  · cases h
  · split at h <;> cases h
    rfl

theorem p1PokeStep_ovf {s t : State} {a : Nat} {b : Byte} (h : p1PokeStep s a b = .ok t) :
    t.ovf = s.ovf := by
  unfold p1PokeStep at h
  split at h <;> cases h
  rfl

theorem p2PokeStep_ovf {s t : State} {burst : Bool} {a : Nat} {b : Byte}
    (h : p2PokeStep s burst a b = .ok t) : t.ovf = s.ovf := by
  unfold p2PokeStep at h
  split at h <;> split at h <;> cases h <;> rfl

theorem rxAccept_ovf {s t : State} {phy : BitVec 5} {octets : List Byte}
    (h : rxAccept s phy octets = .ok t) : t.ovf = s.ovf := by
  unfold rxAccept at h
  split at h <;> cases h
  rfl

theorem rxStep_ovf {s t : State} (h : rxStep s = .ok t) : t.ovf = s.ovf := by
  unfold rxStep at h
  split at h
  · cases h
  · split at h
    · obtain ⟨v, -, h⟩ := bind_ok.1 h
      cases h
      rfl
    · obtain ⟨-, h⟩ := seq_ok.1 h
      obtain ⟨-, h⟩ := seq_ok.1 h
      cases h
      rfl

theorem txStart_ovf {s t : State} {phy : BitVec 5} (h : txStart s phy = .ok t) :
    t.ovf = s.ovf := by
  unfold txStart at h
  dsimp only at h
  split at h
  · obtain ⟨-, h⟩ := seq_ok.1 h
    cases h
    rfl
  · cases h

theorem txStep_ovf {s t : State} (h : txStep s = .ok t) : t.ovf = s.ovf := by
  unfold txStep at h
  split at h
  · cases h
  · split at h
    · unfold txFetch at h
      split at h <;> cases h
      rfl
    · obtain ⟨-, h⟩ := seq_ok.1 h
      cases h
      rfl

theorem pitStep_ovf {s t : State} {k : Fin 2} (h : pitStep s k = .ok t) : t.ovf = s.ovf := by
  unfold pitStep at h
  split at h
  · split at h
    · cases h
    · cases h
      unfold setEvent setPitCount pitUse
      dsimp only
      split <;> split <;> split <;> simp
  · cases h

/-- No move of an agent changes OVF. -/
theorem perform_ovf {m : Move} {s t : State} (h : perform s m = .ok t) : t.ovf = s.ovf := by
  cases m with
  | swan => cases h
  | fmcLoad => exact fmcLoadStep_ovf h
  | fmcDrain => exact fmcDrainStep_ovf h
  | lsu => exact lsuStep_ovf h
  | css => exact cssStep_ovf h
  | dma1 => exact dma1Step_ovf h
  | dma2 => exact dma2Step_ovf h
  | p1Abort => exact abortStep_ovf h
  | p1Poke a b => exact p1PokeStep_ovf h
  | p2Poke burst a b => exact p2PokeStep_ovf h
  | rxOffer phy octets => exact rxAccept_ovf h
  | rx => exact rxStep_ovf h
  | txReady phy => exact txStart_ovf h
  | tx => exact txStep_ovf h
  | pit k => exact pitStep_ovf h
  | icsi pins => cases h; rfl
  | icsLatch => cases h; rfl
  | comminWrite v => cases h; rfl
  | commoutRead => cases h; rfl

/-- Settles O17, by `exec_changes_ovf` and `perform_ovf`. -/
theorem overflowWriters : Obligations.OverflowWriters := by
  unfold Obligations.OverflowWriters
  exact ⟨fun _ _ _ => exec_changes_ovf, fun _ _ _ => perform_ovf⟩

end Sys2Proof.Machine
end

section
/-!
PROOFS. What the shifts and the bit tests do when they are ready (41 R230 to R237, R244, R245): the shift
functions bit by bit, the instructions over the runs of the arithmetic class, and the Bit Bucket as the
destination of TSET and TCLR.
-/
namespace Sys2Proof.Machine

/-! ### The shift functions bit by bit (41 R230) -/

section
variable (x : Half) (n : Nat) {i : Nat}

theorem shl_getLsbD (hi : i < 16) :
    (shl x n).getLsbD i = if i < n then false else x.getLsbD (i - n) := by
  unfold shl
  rw [BitVec.getLsbD_shiftLeft, decide_eq_true hi]
  split <;> rename_i h <;> simp [h]

theorem shr_getLsbD : (shr x n).getLsbD i = x.getLsbD (i + n) := by
  unfold shr
  rw [BitVec.getLsbD_ushiftRight, Nat.add_comm]

theorem sar_getLsbD (hi : i < 16) :
    (sar x n).getLsbD i = if i + n < 16 then x.getLsbD (i + n) else x.getLsbD 15 := by
  unfold sar
  rw [BitVec.getLsbD_sshiftRight, decide_eq_false (Nat.not_le.2 hi), Nat.add_comm]
  rfl

/-- A bit below the amount comes round from the top, and the others come from `n` places below. -/
theorem rotl_getLsbD (hn : n < 16) (hi : i < 16) :
    (rotl x n).getLsbD i = x.getLsbD ((i + 16 - n) % 16) := by
  have hor : (rotl x n).getLsbD i = ((shl x n).getLsbD i || (shr x (16 - n)).getLsbD i) :=
    BitVec.getLsbD_or
  rw [hor, shl_getLsbD x n hi, shr_getLsbD]
  by_cases hin : i < n
  · rw [if_pos hin, Bool.false_or]
    congr 1
    omega
  · have htop : x.getLsbD (i + (16 - n)) = false := BitVec.getLsbD_of_ge _ _ (by omega)
    rw [if_neg hin, htop, Bool.or_false]
    congr 1
    omega

end

/-! ### The signed shift by its amount (30 R171) -/

/-- Bit 4 of an amount is its sign. -/
theorem amount_sign (a : BitVec 5) : a.getLsbD 4 = decide (16 ≤ a.toNat) :=
  BitVec.msb_eq_decide a

theorem sft_left {x : Half} {a : BitVec 5} (h : a.toNat < 16) : sft x a = x <<< a.toNat := by
  unfold sft
  rw [amount_sign, decide_eq_false (Nat.not_le.2 h)]
  rfl

theorem sft_right {x : Half} {a : BitVec 5} (h : 16 ≤ a.toNat) : sft x a = x >>> (32 - a.toNat) := by
  unfold sft
  rw [amount_sign, decide_eq_true h]
  rfl

/-- A 5-bit amount as a signed number. -/
theorem amount_toInt (a : BitVec 5) :
    a.toInt = if a.toNat < 16 then (a.toNat : Int) else (a.toNat : Int) - 32 := by
  rw [BitVec.toInt_eq_toNat_cond]
  exact if_congr (by omega) rfl rfl

theorem sft_nonneg (x : Half) {a : BitVec 5} (h : 0 ≤ a.toInt) : sft x a = x <<< a.toInt.toNat := by
  have hlt := a.isLt
  rw [amount_toInt] at h ⊢
  split at h
  · rename_i hlow
    rw [if_pos hlow, Int.toNat_natCast, sft_left hlow]
  · omega

theorem sft_neg (x : Half) {a : BitVec 5} (h : a.toInt < 0) : sft x a = x >>> (-a.toInt).toNat := by
  rw [amount_toInt] at h ⊢
  split at h
  · omega
  · rename_i hhigh
    rw [if_neg hhigh, sft_right (Nat.not_lt.1 hhigh)]
    congr 1
    omega

/-- Settles O13: the bits of each shift, and SFT by the sign of its amount. -/
theorem shiftBits : Obligations.ShiftBits := by
  unfold Obligations.ShiftBits
  intro x n i hn hi
  exact ⟨shl_getLsbD x n hi, shr_getLsbD x n, sar_getLsbD x n hi, rotl_getLsbD x n hn hi,
    fun _ => sft_nonneg x, fun _ => sft_neg x⟩

/-! ### The seven shift instructions (41 R231 to R237) -/

/-- SFTLI: an amount field with bit 4 clear shifts to the left by its low four bits. -/
theorem sft_zero_append (x : Half) (amt : BitVec 4) :
    sft x ((0 : BitVec 1) ++ amt : BitVec 5) = x <<< amt.toNat := by
  have hval : ((0 : BitVec 1) ++ amt : BitVec 5).toNat = amt.toNat := by
    rw [toNat_append_eq_add]
    simp
  rw [sft_left (by omega), hval]

/-- SFTRI: an amount field with bit 4 set shifts to the right by what its low four bits lack of 16. -/
theorem sft_one_append (x : Half) (amt : BitVec 4) :
    sft x ((1 : BitVec 1) ++ amt : BitVec 5) = x >>> (16 - amt.toNat) := by
  have hval : ((1 : BitVec 1) ++ amt : BitVec 5).toNat = 16 + amt.toNat := by
    rw [toNat_append_eq_add]
    simp
  rw [sft_right (by omega), hval]
  congr 1
  omega

/-- A check made only under a condition leaves the answer to the checks after it when it passes. -/
theorem guarded_ok_left {β : Type} {c : Prop} [Decidable c] {x : Check Unit} {k r : Check β}
    (h : c → x = .ok ()) (hk : k = r) : (if c then (do x; k) else k) = r := by
  split
  · rename_i e
    exact seq_ok_left (h e) hk
  · exact hk

/-- An ALU instruction whose checks pass as far as its operands' values stops with the fault of those
(60 R523). -/
theorem runAlu_value_fault {s : State} {o : AluOp} {rd : Reg} {f : Fault} (hrd : o.rd = some rd)
    (hpre : o.pre = .ok ()) (h61 : rd ≠ 61) (hsrcs : SourcesReady .alu s o.srcs)
    (hum : o.um = true → modeRead s 4 = .ok ()) (hdest : destCheck s rd = .ok ())
    (huse : writeUse s rd = .ok ()) (hval : o.value = .error (.fault f)) :
    runAlu s o = .fault f := by
  have hro : (o.rd == some 61) = false := by simpa [hrd] using h61
  have hd : aluDestCheck s o.rd = .ok () := hrd ▸ seq_ok.2 ⟨hdest, huse⟩
  have hcheck : aluCheck s o = .error (.fault f) :=
    seq_ok_left hpre <| seq_ok_left (raiseIf_false hro) <| seq_ok_left (sourceCheck_ok.2 hsrcs) <|
      guarded_ok_left hum <| seq_ok_left hd <| seq_error hval
  unfold runAlu
  rw [seq_error hcheck]
  rfl

/-- What SFTA runs: an arithmetic operation that checks bit 4 of the amount. -/
def sftaOp (s : State) (rd : Reg) (um : Bool) (abc : Abc) (rsa : Reg) (k : Nat) (rsb : SReg) : AluOp :=
  { arithOp s rd um abc [rsa, sw rsb] k false (readVal .alu s rsa)
      (sar (readVal .alu s rsa) ((readVal .alu s (sw rsb)).extractLsb' 0 4).toNat) none with
    value := raiseIf ((readVal .alu s (sw rsb)).getLsbD 4) .shiftAmountAmbiguous }

section
variable {s : State} {rd rsa : Reg} {um : Bool} {abc : Abc} {modx : BitVec 4} {rsb : SReg}

theorem exec_sfta : exec (.sfta rd um abc rsa modx rsb) s =
    runAlu s (sftaOp s rd um abc rsa (modWidth modx) rsb) := rfl

/-- With bit 4 clear the check of SFTA passes, and what it runs is a plain arithmetic operation. -/
theorem sftaOp_low {k : Nat} (h : (readVal .alu s (sw rsb)).getLsbD 4 = false) :
    sftaOp s rd um abc rsa k rsb = arithOp s rd um abc [rsa, sw rsb] k false (readVal .alu s rsa)
      (sar (readVal .alu s rsa) ((readVal .alu s (sw rsb)).extractLsb' 0 4).toNat) none := by
  unfold sftaOp
  rw [h]
  rfl

theorem sfta_computes (hp : PendingForm s) (hsign : SignTest abc (modWidth modx))
    (h : (readVal .alu s (sw rsb)).getLsbD 4 = false) :
    Computes (.sfta rd um abc rsa modx rsb) s [rsa, sw rsb] rd um abc (modWidth modx) false
      (modMerge (modWidth modx) (readVal .alu s rsa)
        (sar (readVal .alu s rsa) ((readVal .alu s (sw rsb)).extractLsb' 0 4).toNat)) s.ovf :=
  computes_merged hp hsign (exec_sfta.trans (congrArg (runAlu s) (sftaOp_low h)))

theorem sfta_ambiguous (hsign : SignTest abc (modWidth modx))
    (h : (readVal .alu s (sw rsb)).getLsbD 4 = true) (h61 : rd ≠ 61)
    (hsrcs : SourcesReady .alu s [rsa, sw rsb]) (hum : um = true → modeRead s 4 = .ok ())
    (hdest : destCheck s rd = .ok ()) (huse : writeUse s rd = .ok ()) :
    exec (.sfta rd um abc rsa modx rsb) s = .fault .shiftAmountAmbiguous :=
  exec_sfta.trans (runAlu_value_fault rfl (abcCheck_ok hsign) h61 hsrcs hum hdest huse (if_pos h))

end

/-- Settles O12: each shift is an arithmetic operation, the immediate ones by the value of their amount
field, and SFTA by bit 4 of its amount. -/
theorem shiftResult : Obligations.ShiftResult := by
  unfold Obligations.ShiftResult
  intro s rd rsa um ae abc modx rsb amt hp hsign
  refine ⟨computes_merged hp hsign rfl, sfta_computes hp hsign, sfta_ambiguous hsign,
    computes_merged hp hsign rfl, computes_merged hp hsign rfl, computes_merged hp hsign rfl, ?_, ?_⟩
  · rw [← sft_zero_append]
    exact computes_merged hp hsign rfl
  · rw [← sft_one_append]
    exact computes_merged hp hsign rfl

/-! ### TSET and TCLR (41 R244, R245) -/

/-- Without modulo the condition for zero looks at every bit of the result. -/
theorem and_lowMask_full (v : Half) : v &&& lowMask 16 = v := BitVec.and_allOnes

theorem arithBranch_bnz (v : Half) (ovf ae : Bool) :
    arithBranch .bnz 16 v ovf ae = some (decide (v ≠ 0), ae) := by
  simp [arithBranch, abcHolds, and_lowMask_full, beq_eq_decide]

theorem arithBranch_bz (v : Half) (ovf ae : Bool) :
    arithBranch .bz 16 v ovf ae = some (decide (v = 0), ae) := by
  simp [arithBranch, abcHolds, and_lowMask_full, beq_eq_decide]

/-- An arithmetic operation without modulo whose destination is the Bit Bucket only branches. -/
theorem arith_only_branches {i : Instr} {s : State} {srcs : List Reg} {abc : Abc} {ae : Bool}
    {a v : Half} {b : Option (Bool × Bool)} (hsign : SignTest abc 16)
    (hexec : exec i s = runAlu s (arithOp s 36 false abc srcs 16 ae a v none))
    (hb : arithBranch abc 16 v s.ovf ae = b) (hready : AluReady s srcs 36 false v b) :
    ∃ t, exec i s = .next t ∧ Passed s t srcs [] (aluNextQueue s b) ∧ SameJobs s t ∧
      t = passing s t := by
  have hres : (arithOp s 36 false abc srcs 16 ae a v none).res = v := modMerge_full a v
  have hbranch : (arithOp s 36 false abc srcs 16 ae a v none).branch = b :=
    (congrArg (arithBranch abc 16 · s.ovf ae) hres).trans hb
  have hop : AluReady s srcs 36 false (arithOp s 36 false abc srcs 16 ae a v none).res
      (arithOp s 36 false abc srcs 16 ae a v none).branch := by rwa [hres, hbranch]
  rw [hexec, ← hbranch]
  exact runAlu_discards rfl rfl rfl rfl (abcCheck_ok hsign) rfl hop

/-- Settles O15: both are an ANDI to the Bit Bucket, TSET with BNZ and TCLR with BZ (D7). -/
theorem testBranches : Obligations.TestBranches := by
  unfold Obligations.TestBranches
  intro s rsa mask _
  exact ⟨arith_only_branches (signTest_full .bnz) rfl (arithBranch_bnz _ _ _),
    arith_only_branches (signTest_full .bz) rfl (arithBranch_bz _ _ _)⟩

end Sys2Proof.Machine
end

section
/-!
PROOFS. The Branch class (42 R260 to R271): the six instructions as one operation of their link, target and
condition fields, the flow queue case by case, and the word a branch nullifies.
-/
namespace Sys2Proof.Machine

/-! ### The six instructions (42 R266 to R271) -/

/-- An instruction that runs the shared Branch operation completes with its effect. -/
theorem branches_of_runBranch {i : Instr} {s : State} {link : Bool} {x : Target} {e : Fin 16}
    {sense c : Bool} {cso : Cso} (h : exec i s = runBranch s link x e sense c cso) :
    Branches i s link x e sense c cso := fun hready => h ▸ runBranch_ready hready

/-- Settles O18: each instruction is the shared Branch operation, with or without the link, to its target
field, to R59 or to R58. -/
theorem branchResult : Obligations.BranchResult := by
  unfold Obligations.BranchResult
  intro s e sense c cso wadr
  exact ⟨branches_of_runBranch rfl, branches_of_runBranch rfl, branches_of_runBranch rfl,
    branches_of_runBranch rfl, branches_of_runBranch rfl, branches_of_runBranch rfl⟩

/-! ### The condition (42 R261) -/

theorem branchTaken_iff {s : State} {e : Fin 16} {sense : Bool} :
    branchTaken s e sense = true ↔ e = 15 ∨ essVal s e = sense := by
  rw [branchTaken, Bool.or_eq_true, beq_iff_eq, beq_iff_eq]

/-! ### The flow queue (42 R262) -/

section
variable (s : State) (t : BitVec 17)

/-- A conditional branch that is taken runs its committed slot whatever C is. -/
theorem branchQueue_taken (c : Bool) :
    branchQueue s false true c t = [(s.pc + 1, .bslot), (t, .seq)] := rfl

/-- Without C the committed slot of an unconditional branch runs too. -/
theorem branchQueue_always :
    branchQueue s true true false t = [(s.pc + 1, .bslot), (t, .seq)] := rfl

theorem branchQueue_always_nullified : branchQueue s true true true t = [(t, .seq)] := rfl

theorem branchQueue_not_taken (u : Bool) :
    branchQueue s u false false t = [(s.pc + 1, .bslot)] := rfl

theorem branchQueue_not_taken_nullified (u : Bool) :
    branchQueue s u false true t = [(s.pc + 2, .seq)] := rfl

end

/-! ### The nullified word (42 R262; 20 R120) -/

/-- With no write of it buffered, a reader gets the halfword that memory holds. -/
theorem fmReadHalf_of_not_buffered {s : State} {a : Nat} (h : buffered s a = none) (site : Nat) :
    fmReadHalf s a site = readHalf s.fm a := by
  unfold fmReadHalf
  rw [h]

/-- Where the word after the pc is written and no write to it is buffered, it is the nullified word. -/
theorem nullifiedWord_eq {s : State} {hi lo : Half}
    (bhi : buffered s (4 * (s.pc + 1).toNat) = none)
    (blo : buffered s (4 * (s.pc + 1).toNat + 2) = none)
    (rhi : readHalf s.fm (4 * (s.pc + 1).toNat) = some hi)
    (rlo : readHalf s.fm (4 * (s.pc + 1).toNat + 2) = some lo) : nullifiedWord s = hi ++ lo := by
  unfold nullifiedWord
  dsimp only
  rw [fmReadHalf_of_not_buffered bhi, fmReadHalf_of_not_buffered blo, rhi, rlo]
  rfl

/-- Settles O19: the flow of the branch is its queue, which the condition and C decide. -/
theorem branchOrder : Obligations.BranchOrder := by
  unfold Obligations.BranchOrder
  intro s t link e sense c cso wadr hdone target taken
  have flow : Follows s t (branchQueue s (e == 15) (branchTaken s e sense) c target) := hdone.flow
  have htaken (h : taken) : branchTaken s e sense = true := branchTaken_iff.2 h
  have hnot (h : ¬ taken) : branchTaken s e sense = false := by
    rwa [← Bool.not_eq_true, branchTaken_iff]
  refine ⟨fun he ht => ?_, fun ht hc => ?_, fun ht hc => ?_, fun he hc => ?_, fun he hc => ?_,
    fun _ _ => nullifiedWord_eq⟩
  · rwa [beq_false_of_ne he, htaken ht, branchQueue_taken] at flow
  · rwa [hnot ht, hc, branchQueue_not_taken] at flow
  · rwa [hnot ht, hc, branchQueue_not_taken_nullified] at flow
  · rwa [beq_iff_eq.2 he, htaken (.inl he), hc, branchQueue_always] at flow
  · rwa [beq_iff_eq.2 he, htaken (.inl he), hc, branchQueue_always_nullified] at flow

end Sys2Proof.Machine
end

section
/-!
PROOFS. The Cell Scheduling instructions (43 R294 to R299): once its operands are in order, each of them
comes to one gate on the Cell Scheduling System, which stops it, lets it wait, or lets it hand over its
operation.
-/
namespace Sys2Proof.Machine

/-! ### The operands -/

/-- What a Cell Scheduling instruction checks of its operands, before it looks at the state of the CSS. -/
def CssOperands (s : State) (o : CssIssue) : Prop :=
  SourcesReady .other s o.srcs ∧ impliedUse s 60 2 = .ok () ∧
    (o.kind = .popc → o.rd.val < 32 ∧ destCheck s o.rd = .ok ())

/-- What a Cell Scheduling instruction checks once its operands are in order (43 R294, R296, R299). -/
def cssGate (s : State) (k : CssKind) : Check Unit := do
  raiseIf ((useVal s (.reg 60) 2 s.regs[60]).getLsbD 14) .cssInReset
  raiseIf (k == .popf && s.popfAge.isSome) .popfSpacing
  advanceCheck s s.fq
  stallIf (decide (2 ≤ s.cssq.length))

/-- A further source that can be read leaves the sources of an instruction ready. -/
theorem SourcesReady.cons {u : Use} {s : State} {r : Reg} {l : List Reg} (hr : Readable u s r)
    (h : SourcesReady u s l) : SourcesReady u s (r :: l) :=
  ⟨h.1, List.forall_mem_cons.2 ⟨hr, h.2⟩⟩

theorem cssCheck_of_operands {s : State} {o : CssIssue} (h : CssOperands s o) :
    cssCheck s o = cssGate s o.kind := by
  obtain ⟨hsrc, himp, hdest⟩ := h
  have hclass : (o.kind == .popc && decide (32 ≤ o.rd.val)) = false := by
    by_cases hk : o.kind = .popc
    · simpa [hk] using (hdest hk).1
    · simp [hk]
  refine seq_ok_left (raiseIf_false hclass) (seq_ok_left (sourceCheck_ok.2 hsrc)
    (seq_ok_left himp ?_))
  by_cases hk : o.kind = .popc
  · rw [if_pos hk]
    exact seq_ok_left (hdest hk).2 rfl
  · rw [if_neg hk]
    rfl

/-! ### The gate -/

section
variable {s : State} {k : CssKind}

theorem cssGate_in_reset (h : (useVal s (.reg 60) 2 s.regs[60]).getLsbD 14 = true) :
    cssGate s k = .error (.fault .cssInReset) :=
  seq_error (by rw [h]; rfl)

theorem cssGate_spacing (hr : (useVal s (.reg 60) 2 s.regs[60]).getLsbD 14 = false)
    (ha : s.popfAge ≠ none) : cssGate s .popf = .error (.fault .popfSpacing) :=
  seq_ok_left (raiseIf_false hr)
    (seq_error (by rw [Option.isSome_iff_ne_none.2 ha]; rfl))

/-- Out of reset and with no POPF too close, the gate is open as long as the buffer has room. -/
theorem cssGate_eq_stallIf (hr : (useVal s (.reg 60) 2 s.regs[60]).getLsbD 14 = false)
    (ha : k = .popf → s.popfAge = none) (hc : CanAdvance s) :
    cssGate s k = stallIf (decide (2 ≤ s.cssq.length)) := by
  have hspacing : (k == .popf && s.popfAge.isSome) = false := by
    by_cases hk : k = .popf
    · simp [ha hk]
    · simp [hk]
  exact seq_ok_left (raiseIf_false hr) (seq_ok_left (raiseIf_false hspacing)
    (seq_ok_left (advanceCheck_ok hc) rfl))

end

/-! ### The outcome of an instruction -/

section
variable {i : Instr} {s : State} {o : CssIssue}

theorem complete_fault {r : Check State} {f : Fault} (h : r = .error (.fault f)) :
    complete s r = .fault f := by
  rw [h]; rfl

theorem complete_stall {r : Check State} (h : r = .error .stall) :
    complete s r = .next (waiting s) := by
  rw [h]; rfl

/-- While the CSS is held in reset, no operation reaches it (43 R299; 92 D46). -/
theorem css_in_reset (he : exec i s = runCss s o) (h : CssOperands s o)
    (hr : (useVal s (.reg 60) 2 s.regs[60]).getLsbD 14 = true) : exec i s = .fault .cssInReset :=
  he.trans (complete_fault (seq_error ((cssCheck_of_operands h).trans (cssGate_in_reset hr))))

/-- A POPF too soon after another stops (43 R296; 92 D48). -/
theorem css_spacing (he : exec i s = runCss s o) (h : CssOperands s o) (hk : o.kind = .popf)
    (hr : (useVal s (.reg 60) 2 s.regs[60]).getLsbD 14 = false) (ha : s.popfAge ≠ none) :
    exec i s = .fault .popfSpacing :=
  he.trans (complete_fault (seq_error ((cssCheck_of_operands h).trans
    (hk ▸ cssGate_spacing hr ha))))

/-- With two operations in the instruction buffer a third waits (43 R294). -/
theorem css_full (he : exec i s = runCss s o) (h : CssOperands s o)
    (hr : (useVal s (.reg 60) 2 s.regs[60]).getLsbD 14 = false)
    (ha : o.kind = .popf → s.popfAge = none) (hc : CanAdvance s) (hq : 2 ≤ s.cssq.length) :
    exec i s = .next (waiting s) := by
  have hgate : cssGate s o.kind = .error .stall := by
    rw [cssGate_eq_stallIf hr ha hc, decide_eq_true hq]
    rfl
  exact he.trans (complete_stall (seq_error ((cssCheck_of_operands h).trans hgate)))

/-- With a place in the buffer the instruction completes, and the operation is handed over (43 R294). -/
theorem css_dispatch (he : exec i s = runCss s o) (h : CssReady s o.srcs)
    (hd : o.kind = .popc → o.rd.val < 32 ∧ destCheck s o.rd = .ok ())
    (ha : o.kind = .popf → s.popfAge = none) :
    exec i s = .next (cssNext s o) ∧ CssDispatched s (cssNext s o) o.srcs (cssOpOf s o) := by
  obtain ⟨t, ht, hdone⟩ := runCss_ready h hd ha
  obtain ⟨hsrc, himp, hr, hc, hq⟩ := h
  have hgate : cssGate s o.kind = .ok () := by
    rw [cssGate_eq_stallIf hr ha hc]
    exact stallIf_false (by simpa using hq)
  have hrun : runCss s o = .next (cssNext s o) :=
    runCss_ok ((cssCheck_of_operands ⟨hsrc, himp, hd⟩).trans hgate)
  obtain rfl : cssNext s o = t := Host.Outcome.next.inj (hrun.symm.trans ht)
  exact ⟨he.trans hrun, hdone⟩

/-- The register a POPC has just taken as its destination; other operations leave none (43 R295). -/
theorem cssNext_popcShadow :
    (cssNext s o).popcShadow = if o.kind = .popc then some o.rd else none := by
  simp [cssNext]

theorem cssNext_popfAge (h : o.kind = .popf) : (cssNext s o).popfAge = some 0 := by
  simp [cssNext, h]

end

/-- The destination of a POPC that is still in the buffer is owed its Connection ID (43 R294). -/
theorem pending_of_popc {s : State} {o : CssOp} (ho : o ∈ s.cssq) (hk : o.kind = .popc) :
    pending s o.rd = true := by
  have hany : s.cssq.any (fun p => cssPending p o.rd) = true :=
    List.any_eq_true.2 ⟨o, ho, by simp [cssPending, hk]⟩
  rw [pending, hany, Bool.or_true]

/-- Settles O21: each instruction is dispatched through its gate; a POPC's operation is the newest one in
the buffer, which makes its destination pending. -/
theorem cssDispatch : Obligations.CssDispatch := by
  unfold Obligations.CssDispatch
  intro s r rsb slot
  refine ⟨fun hr hdest h => ?_, fun hage h => ?_, fun h => ?_, fun h => ?_⟩
  · obtain ⟨he, hd⟩ := css_dispatch (i := .popc r rsb) rfl h (fun _ => ⟨hr, hdest⟩) nofun
    have hqueued := hd.queued ▸ List.mem_append_right s.cssq (List.mem_singleton_self _)
    exact ⟨_, he, hd, pending_of_popc hqueued rfl, cssNext_popcShadow⟩
  · obtain ⟨he, hd⟩ := css_dispatch (i := .popf r rsb) rfl h nofun (fun _ => hage)
    exact ⟨_, he, hd, cssNext_popfAge rfl⟩
  · exact ⟨_, css_dispatch (i := .pushc r rsb) rfl h nofun nofun⟩
  · exact ⟨_, css_dispatch (i := .pushf r rsb) rfl h nofun nofun⟩

/-- Settles O22: a hardware destination is refused before anything else is looked at; the other stops and
the wait are those of the gate. -/
theorem cssStops : Obligations.CssStops := by
  unfold Obligations.CssStops
  intro s r rsb
  refine ⟨fun hr => ?_, fun hsrc himp => ?_⟩
  · have hclass : raiseIf (CssKind.popc == .popc && decide (32 ≤ r.val)) .operandClass =
        .error (.fault .operandClass) := by
      rw [decide_eq_true hr]; rfl
    exact complete_fault (seq_error (seq_error hclass))
  · have popf : CssOperands s ⟨.popf, [sw rsb], r, rsb, 0⟩ := ⟨hsrc, himp, nofun⟩
    have pushf : CssOperands s ⟨.pushf, [sw rsb], r, rsb, 0⟩ := ⟨hsrc, himp, nofun⟩
    have pushc (hr : Readable .other s r) :
        CssOperands s ⟨.pushc, [r, sw rsb], r, rsb, readVal .other s r⟩ :=
      ⟨.cons hr hsrc, himp, nofun⟩
    have popc (hr : r.val < 32) (hd : destCheck s r = .ok ()) :
        CssOperands s ⟨.popc, [sw rsb], r, rsb, 0⟩ := ⟨hsrc, himp, fun _ => ⟨hr, hd⟩⟩
    refine ⟨fun hreset => ?_, fun hrun => ⟨fun hage => ?_, fun hadv hfull => ?_⟩⟩
    · exact ⟨css_in_reset rfl popf hreset, css_in_reset rfl pushf hreset,
        fun hr => css_in_reset rfl (pushc hr) hreset,
        fun hr hd => css_in_reset rfl (popc hr hd) hreset⟩
    · exact css_spacing rfl popf rfl hrun hage
    · exact ⟨css_full rfl pushf hrun nofun hadv hfull,
        fun hage => css_full rfl popf hrun (fun _ => hage) hadv hfull,
        fun hr => css_full rfl (pushc hr) hrun nofun hadv hfull,
        fun hr hd => css_full rfl (popc hr hd) hrun nofun hadv hfull⟩

end Sys2Proof.Machine
end

section
/-!
PROOFS. The actions of the Cell Scheduling System (43 R292 to R299): a pop of one Scoreboard bit, and the
search of a section for its first Available slot.
-/
namespace Sys2Proof.Machine

/-- A register keeps its cell when another one is set. -/
theorem regs_set_other (g : Vector Half 64) {r q : Reg} (v : Half) (h : r ≠ q) :
    (g.set q v)[r] = g[r] := Vector.getElem_set_ne _ _ fun e => h (Fin.ext e.symm)

/-- The CSS takes the oldest operation out of its buffer and performs it (43 R294). -/
theorem perform_css {s : State} {o : CssOp} {rest : List CssOp} (h : s.cssq = o :: rest) :
    perform s .css = cssPerform { s with cssq := rest, draws := s.draws + 1 } o := by
  change cssStep s = _
  unfold cssStep
  rw [h]

/-! ### Popping a slot (43 R295, R296) -/

section
variable {s : State} {o : CssOp}

theorem popSlot_acf {t : Nat} {b : Bool} (h : Memory.read s.sb t = some b) :
    (popSlot s t).acf = b := by
  simp [popSlot, h]

theorem popSlot_read (s : State) (t a : Nat) :
    Memory.read (popSlot s t).sb a = if a = t then some false else Memory.read s.sb a :=
  Memory.read_write s.sb t a false

/-- A Connection ID that is written and not buffered is what a POPC reads. -/
theorem cidRead_eq {t : Nat} {h : Half} (hb : buffered s (cidAddr s t) = none)
    (hm : readHalf s.fm (cidAddr s t) = some h) : cidRead s t = h := by
  rw [cidRead, fmReadHalf_of_not_buffered hb, hm]
  rfl

theorem cidCheck_ok {n : Nat} (h : cidAddr s n < fmLimit s (modeBit s 4)) : cidCheck s n = .ok () :=
  raiseIf_false (by simpa using h)

theorem cssPerform_popf (hk : o.kind = .popf) : cssPerform s o = .ok (popSlot s o.t.toNat) := by
  rw [cssPerform, hk]

theorem cssPerform_popc (hk : o.kind = .popc)
    (hl : cidAddr s o.t.toNat < fmLimit s (modeBit s 4)) :
    cssPerform s o = .ok (setReg (popSlot s o.t.toNat) o.rd (cidRead s o.t.toNat)) := by
  rw [cssPerform, hk]
  exact seq_ok_left (cidCheck_ok hl) rfl

end

/-- Settles O23: both pops are `popSlot`, and a POPC sets its destination beside it. -/
theorem popAction : Obligations.PopAction := by
  unfold Obligations.PopAction
  intro s o rest b hq hbit
  have hsame {s' : State} : Memory.read (popSlot s' o.t.toNat).sb o.t.toNat = some false :=
    (popSlot_read s' _ _).trans (if_pos rfl)
  have hother {s' : State} (a : Nat) (ha : a ≠ o.t.toNat) :
      Memory.read (popSlot s' o.t.toNat).sb a = Memory.read s'.sb a :=
    (popSlot_read s' _ a).trans (if_neg ha)
  refine ⟨fun hk => ?_, fun hk h hl hb hm => ?_⟩
  · exact ⟨_, (perform_css hq).trans (cssPerform_popf hk), popSlot_acf hbit, hsame, hother, rfl⟩
  · refine ⟨_, (perform_css hq).trans (cssPerform_popc hk hl), popSlot_acf hbit, hsame, hother, ?_,
      fun r hr => regs_set_other s.regs _ hr, rfl⟩
    exact (Vector.getElem_set_self ..).trans (cidRead_eq hb hm)

/-! ### The search of a section (43 R292, R297) -/

section
variable {m : Sparse Bool} {b off len : Nat}

theorem searchFree_available {fuel k : Nat} (h : Memory.read m (b + (off + k) % len) = some false) :
    searchFree m b off len (fuel + 1) k = .ok (some (b + (off + k) % len)) := by
  simp only [searchFree, h]

theorem searchFree_reserved {fuel k : Nat} (h : Memory.read m (b + (off + k) % len) = some true) :
    searchFree m b off len (fuel + 1) k = searchFree m b off len fuel (k + 1) := by
  simp only [searchFree, h]

/-- Past `n` reserved slots the search goes on at the next one. -/
theorem searchFree_skip {fuel : Nat} : ∀ (n k : Nat),
    (∀ j, j < n → Memory.read m (b + (off + (k + j)) % len) = some true) →
    searchFree m b off len (n + fuel) k = searchFree m b off len fuel (k + n)
  | 0, k, _ => by rw [Nat.zero_add, Nat.add_zero]
  | n + 1, k, h => by
    have hrest : ∀ j, j < n → Memory.read m (b + (off + (k + 1 + j)) % len) = some true := by
      intro j hj
      rw [Nat.add_right_comm k 1 j]
      exact h (j + 1) (Nat.succ_lt_succ hj)
    calc searchFree m b off len (n + 1 + fuel) k
        = searchFree m b off len (n + fuel + 1) k := by rw [Nat.add_right_comm]
      _ = searchFree m b off len (n + fuel) (k + 1) := searchFree_reserved (h 0 n.succ_pos)
      _ = searchFree m b off len fuel (k + 1 + n) := searchFree_skip n (k + 1) hrest
      _ = searchFree m b off len fuel (k + (n + 1)) := by rw [Nat.add_right_comm]; rfl

end

/-- The slot `k` places after slot `t`, around the end of the section of `t` (43 R292; 92 D47). -/
def sectionSlot (s : State) (t k : Nat) : Nat :=
  t - t % sectionSize s + (t % sectionSize s + k) % sectionSize s

section
variable {s : State} {t : Nat}

theorem findSlot_first {k : Nat} (hk : k < sectionSize s)
    (hres : ∀ j, j < k → Memory.read s.sb (sectionSlot s t j) = some true)
    (hfree : Memory.read s.sb (sectionSlot s t k) = some false) :
    findSlot s t = .ok (some (sectionSlot s t k)) := by
  obtain ⟨fuel, hfuel⟩ : ∃ fuel, sectionSize s = k + (fuel + 1) :=
    ⟨sectionSize s - k - 1, by omega⟩
  have hskip := searchFree_skip (fuel := fuel + 1) (m := s.sb) (b := t - t % sectionSize s)
    (off := t % sectionSize s) (len := sectionSize s) k 0 (by simpa [sectionSlot] using hres)
  rw [← hfuel, Nat.zero_add] at hskip
  exact hskip.trans (searchFree_available hfree)

theorem findSlot_full
    (hres : ∀ j, j < sectionSize s → Memory.read s.sb (sectionSlot s t j) = some true) :
    findSlot s t = .ok none :=
  searchFree_skip (fuel := 0) (sectionSize s) 0 (by simpa [sectionSlot] using hres)

end

/-! ### Pushing a slot (43 R297 to R299) -/

section
variable {s : State} {o : CssOp}

theorem cssPerform_pushf {n : Nat} (hk : o.kind = .pushf)
    (hf : findSlot s o.t.toNat = .ok (some n)) : cssPerform s o = .ok (reserveSlot s n) := by
  rw [cssPerform, hk]
  dsimp only
  rw [hf]
  rfl

theorem cssPerform_pushc {n : Nat} (hk : o.kind = .pushc)
    (hf : findSlot s o.t.toNat = .ok (some n)) (hl : cidAddr s n < fmLimit s (modeBit s 4))
    (hw : s.wbuf.length < 4) :
    cssPerform s o = .ok (postWrite (reserveSlot s n) (cidAddr s n) o.cid) := by
  rw [cssPerform, hk]
  dsimp only
  rw [hf]
  exact seq_ok_left (cidCheck_ok hl) (seq_ok_left (stallIf_false (by simpa using hw)) rfl)

theorem cssPerform_full (hk : o.kind = .pushc ∨ o.kind = .pushf)
    (hf : findSlot s o.t.toNat = .ok none) : cssPerform s o = .ok (cssFull s) := by
  rcases hk with hk | hk <;>
  · rw [cssPerform, hk]
    dsimp only
    rw [hf]
    rfl

theorem reserveSlot_read (s : State) (n a : Nat) :
    Memory.read (reserveSlot s n).sb a = if a = n then some true else Memory.read s.sb a :=
  Memory.read_write s.sb n a true

/-- What a reserved slot shows of itself: its Scoreboard bit and R61, and nothing of the others. -/
theorem reserveSlot_effect (s : State) (n : Nat) :
    Memory.read (reserveSlot s n).sb n = some true ∧
      (∀ a, a ≠ n → Memory.read (reserveSlot s n).sb a = Memory.read s.sb a) ∧
      (reserveSlot s n).regs[(61 : Reg)] = BitVec.ofNat 16 n ∧
      ∀ r : Reg, r ≠ 61 → (reserveSlot s n).regs[r] = s.regs[r] :=
  ⟨(reserveSlot_read s n n).trans (if_pos rfl),
    fun a ha => (reserveSlot_read s n a).trans (if_neg ha),
    Vector.getElem_set_self .., fun _ hr => regs_set_other s.regs _ hr⟩

/-- A posted write changes the write buffer and what the cache history knows of the word. -/
theorem postWrite_frame (s : State) (a : Nat) (v : Half) :
    postWrite s a v =
      { s with wbuf := s.wbuf ++ [(a, v)], icWords := (postWrite s a v).icWords } := by
  unfold postWrite touchWord
  split <;> rfl

theorem cssFull_r60 : (cssFull s).regs[(60 : Reg)] = s.regs[60] ||| 0x8000 :=
  (regs_set_other _ (r := 60) (q := 61) _ (by decide)).trans (Vector.getElem_set_self ..)

theorem cssFull_other {r : Reg} (h60 : r ≠ 60) (h61 : r ≠ 61) :
    (cssFull s).regs[r] = s.regs[r] :=
  (regs_set_other _ _ h61).trans (regs_set_other _ _ h60)

end

/-- Settles O24: the search finds the first Available slot or none, and each operation then does what
its equation says. -/
theorem pushAction : Obligations.PushAction := by
  unfold Obligations.PushAction
  intro s o rest hq len slot
  refine ⟨fun k hk hres hfree => ?_, fun hkind hres => ?_⟩
  · have hfind : findSlot { s with cssq := rest, draws := s.draws + 1 } o.t.toNat =
        .ok (some (slot k)) := findSlot_first hk hres hfree
    obtain ⟨hself, hother, h61, hregs⟩ :=
      reserveSlot_effect { s with cssq := rest, draws := s.draws + 1 } (slot k)
    refine ⟨fun hkind => ?_, fun hkind hl hw => ?_⟩
    · exact ⟨_, (perform_css hq).trans (cssPerform_pushf hkind hfind), hself, hother, h61, hregs,
        rfl⟩
    · refine ⟨_, (perform_css hq).trans (cssPerform_pushc hkind hfind hl hw), ?_⟩
      rw [postWrite_sb, postWrite_regs, postWrite_wbuf, postWrite_draws]
      exact ⟨hself, hother, h61, hregs, rfl, postWrite_frame _ _ _⟩
  · have hfind : findSlot { s with cssq := rest, draws := s.draws + 1 } o.t.toNat = .ok none :=
      findSlot_full hres
    exact ⟨_, (perform_css hq).trans (cssPerform_full hkind hfind), cssFull_r60,
      fun _ => cssFull_other, rfl⟩

end Sys2Proof.Machine
end

section
/-!
PROOFS. Words that the spec encodes (95_test_vectors), read back by the round trip of the decoder (30 R140 to
R169).
-/
namespace Sys2Proof

/-- A word that is the encoding of a well-formed instruction decodes to that instruction. -/
theorem decode_of_encode_eq {i : Instr} {w : Word} (hwf : i.wf false = true) (hw : encode i = w) :
    decode true false w = .ok i := hw ▸ decodeOfEncode true false i hwf

/-- Settles O4: each word is the encoding of its instruction, and so decodes back to it. -/
theorem decodeWords : Obligations.DecodeWords := by
  unfold Obligations.DecodeWords
  exact ⟨decode_of_encode_eq rfl rfl, decode_of_encode_eq rfl rfl, decode_of_encode_eq rfl rfl,
    decode_of_encode_eq rfl rfl, decode_of_encode_eq rfl rfl, decode_of_encode_eq rfl rfl,
    decode_of_encode_eq rfl rfl, decode_of_encode_eq rfl rfl⟩

end Sys2Proof
end

section
/-!
PROOFS. The DMA instructions (44 R320 to R338): the fields of the command that one forms, and its issue. Once an
instruction is formed, all its checks come to one: whether its port has a place.
-/
namespace Sys2Proof.Machine

/-! ### The command (44 R323 to R325) -/

section
variable (s : State) (o : DmaOp)

theorem dmaCmdOf_crcSel : (dmaCmdOf s o).crcSel = crcSelOf (dmaCx s o) (dmaCy s o) := rfl

theorem crcSelOf_eq_x (cx cy : Bool) : crcSelOf cx cy = .x ↔ cx = true := by
  cases cx <;> cases cy <;> decide

theorem crcSelOf_false_eq_y (cy : Bool) : crcSelOf false cy = .y ↔ cy = true := by
  cases cy <;> decide

/-- Only DMA1R keeps an odd count (44 R325). -/
theorem dmaCount_read (hp : o.port2 = false) (hw : o.write = false) :
    dmaCount s o = dmaCount0 s o := by
  unfold dmaCount
  rw [hp, hw]
  rfl

/-- Every other DMA instruction drops the odd byte (44 R325). -/
theorem dmaCount_even (h : o.port2 = true ∨ o.write = true) :
    dmaCount s o = dmaCount0 s o - dmaCount0 s o % 2 := by
  have hc : (! o.port2 && ! o.write) = false := by
    rcases h with h | h
    · rw [h]; rfl
    · rw [h, Bool.not_true, Bool.and_false]
  unfold dmaCount
  rw [hc]
  rfl

end

/-- Settles O28: the count by `dmaCount_read` and `dmaCount_even`, the CRC selection by the two lemmas on
`crcSelOf`, the other fields as the command is formed. -/
theorem dmaCommandCount : Obligations.DmaCommandCount := by
  unfold Obligations.DmaCommandCount
  intro s o n0 cx cy c
  have reg (x : Rla) (v : Half) (hv : rlaVal .dma s x = v) (h : o.rla = x) : c.l = v := by
    rw [← hv, ← h]
    rfl
  refine ⟨⟨rfl, rfl, rfl, rfl, rfl, rfl, rfl⟩, reg _ _ rfl, reg _ _ rfl, reg _ _ rfl, reg _ _ rfl,
    reg _ _ rfl, reg _ _ rfl, reg _ _ rfl, reg _ _ rfl, dmaCount_read s o, fun h => ?_, fun h => ?_,
    fun h => ?_⟩
  · have hn : c.n = n0 - n0 % 2 := dmaCount_even s o h
    omega
  · have hx : dmaCx s o = false := by rw [dmaCx, h]; rfl
    have hy : dmaCy s o = false := by rw [dmaCy, h]; rfl
    rw [dmaCmdOf_crcSel, hx, hy]
    rfl
  · have hx : dmaCx s o = cx := by rw [dmaCx, h]; rfl
    have hy : dmaCy s o = cy := by rw [dmaCy, h]; rfl
    rw [dmaCmdOf_crcSel, hx, hy]
    exact ⟨crcSelOf_eq_x cx cy, fun hc => hc ▸ crcSelOf_false_eq_y cy⟩

/-! ### The checks of a formed instruction (44 R321, R326 to R328) -/

section
variable {s : State} {o : DmaOp}

theorem controlCheck_of_control (h : DmaControl s o) : controlCheck s o = .ok () := by
  obtain ⟨hstrict, hpair⟩ := h
  refine seq_ok.2 ⟨raiseIf_false (Bool.eq_false_iff.2 fun e => ?_),
    raiseIf_false (Bool.eq_false_iff.2 fun e => ?_)⟩
  · simp only [Bool.and_eq_true, Bool.not_eq_true'] at e
    obtain ⟨⟨hs, hi⟩, hset⟩ := e
    obtain ⟨hb, hx, hy⟩ := hstrict hs hi
    rw [hb, hx, hy] at hset
    exact absurd hset (by decide)
  · simp only [Bool.and_eq_true, Bool.not_eq_true'] at e
    obtain ⟨⟨⟨hp, hi⟩, hx⟩, hy⟩ := e
    exact hpair ⟨by rw [dmaCx, hp, hi, hx]; rfl, by rw [dmaCy, hp, hi, hy]; rfl⟩

theorem plusCheck_of_free (h : PlusFree s o) : plusCheck o = .ok () := by
  refine raiseIf_false ?_
  cases hp : o.plus
  · rfl
  · obtain ⟨r, hr, -⟩ := h hp
    rw [hr]
    rfl

/-- A "+" form on a constant stops before anything but its Control field is looked at (92 D25). -/
theorem plusCheck_constant (hp : o.plus = true) (hr : rlaReg o.rla = none) :
    plusCheck o = .error (.fault .rlaConstantIncrement) := by
  rw [plusCheck, hp, hr]
  rfl

theorem plusFreeCheck_of_free (h : PlusFree s o) : plusFreeCheck s o = .ok () := by
  unfold plusFreeCheck
  split
  · rename_i r hp hr
    obtain ⟨q, hq, hnone, htrap⟩ := h hp
    obtain rfl : q = r := Option.some.inj (hq.symm.trans hr)
    exact seq_ok.2 ⟨raiseIf_false (by rw [hnone]; rfl), raiseIf_false (by simpa using htrap)⟩
  · rfl

/-- The register of a "+" form that passed its check has no increment pending (44 R327). -/
theorem plusFreeCheck_plusOf {r : Reg} (hp : o.plus = true) (hr : rlaReg o.rla = some r)
    (h : plusFreeCheck s o = .ok ()) : plusOf s r = none := by
  unfold plusFreeCheck at h
  rw [hp, hr] at h
  simpa using raiseIf_ok.1 (seq_ok.1 h).1

theorem dmaReadCheck_of_readable (h : DmaReadable s o) : dmaReadCheck s o = .ok () := by
  obtain ⟨hsrc, hpair, hcount, hmode, hsize⟩ := h
  exact seq_ok.2 ⟨sourceCheck_ok.2 hsrc, when_ok (fun e => hmode (by simpa using e))
    (when_ok (fun e => hcount (by simpa using e)) (when_ok hsize (forM_ok.2 hpair)))⟩

theorem altCheck_of_control (h : DmaControl s o) : altCheck s o = .ok () := by
  refine raiseIf_false (Bool.eq_false_iff.2 fun e => h.2 ?_)
  simp only [Bool.and_eq_true] at e
  exact ⟨e.1.2, e.2⟩

theorem dmaLocalCheck_of_range {c : DmaCmd} (h : LocalRange c) : dmaLocalCheck c = .ok () := by
  obtain ⟨hsb, hgather, hend⟩ := h
  refine seq_ok.2 ⟨raiseIf_false hsb, seq_ok.2 ⟨raiseIf_false (Bool.eq_false_iff.2 fun e => ?_),
    raiseIf_false ?_⟩⟩
  · simp only [gatherBad, Bool.and_eq_true, bne_iff_ne] at e
    obtain ⟨hn, ⟨-, h10⟩, hne⟩ := e
    exact hne (hgather hn h10)
  · split <;> rename_i h10
    · rw [if_pos h10] at hend
      simpa using hend
    · rw [if_neg h10] at hend
      simpa using hend

/-- A formed instruction completes or waits by one check: that its port has a place (44 R321). -/
theorem dmaCheck_of_formed (h : DmaFormed s o) (hf : PlusFree s o) :
    dmaCheck s o = stallIf (decide (3 ≤ (queueOf s o.port2).length)) := by
  obtain ⟨hread, hctl, hrange, hport, hadv⟩ := h
  refine seq_ok_left (controlCheck_of_control hctl) (seq_ok_left (plusCheck_of_free hf)
    (seq_ok_left (dmaReadCheck_of_readable hread) (seq_ok_left (plusFreeCheck_of_free hf)
    (seq_ok_left (altCheck_of_control hctl) (seq_ok_left (dmaLocalCheck_of_range hrange) ?_)))))
  cases hp : o.port2
  · rw [hp] at hport
    exact seq_ok_left (port1Check_ok hport) (seq_ok_left (advanceCheck_ok hadv) rfl)
  · rw [hp] at hport
    exact seq_ok_left (port2Check_ok hport) (seq_ok_left (advanceCheck_ok hadv) rfl)

/-! ### The outcome of an instruction (44 R320, R321, R327) -/

/-- What `tick` leaves of the pending increments (44 R327). -/
def agedPlus (l : List PlusInc) : List PlusInc :=
  (l.filter fun p => p.age = 0).map fun p => { p with age := 1 }

/-- The aged increments, and the one a "+" form schedules, are pending after a DMA instruction. -/
theorem dmaNext_plus : (dmaNext s o).plus = agedPlus s.plus ++ plusOfOp s o := by
  simp [dmaNext, agedPlus]

/-- Each DMA instruction issues its command, or waits, as 44 R320 and R321 say. -/
theorem issues_of_runDma {i : Instr} (he : exec i s = runDma s o) : Issues i s o := by
  have wait : WaitsForPort i s o := fun hform hfree hfull => by
    have hcheck : dmaCheck s o = .error .stall := by
      rw [dmaCheck_of_formed hform hfree, decide_eq_true hfull]
      rfl
    exact he.trans (complete_stall (seq_error hcheck))
  have issue (hr : DmaReady s o) (hf : PlusFree s o) :
      exec i s = .next (dmaNext s o) ∧ DmaIssued s (dmaNext s o) o := by
    have hcheck : dmaCheck s o = .ok () :=
      (dmaCheck_of_formed hr.1 hf).trans (stallIf_false (by simpa using hr.2))
    obtain ⟨t, ht, hissued⟩ := runDma_ready hr hf
    obtain rfl : dmaNext s o = t := Host.Outcome.next.inj ((runDma_ok hcheck).symm.trans ht)
    exact ⟨he.trans (runDma_ok hcheck), hissued⟩
  refine ⟨wait, fun hr => ⟨fun hp => ⟨_, issue hr ?_⟩, fun hp r hrdy => ?_⟩⟩
  · exact fun e => absurd (hp.symm.trans e) Bool.false_ne_true
  · obtain ⟨hnext, hissued⟩ := issue hr fun _ => ⟨r, hrdy⟩
    have hnew : plusOfOp s o = [{ r := r, new := plusNew (rlaVal .dma s o.rla), age := 0 }] := by
      rw [plusOfOp, if_pos hp, hrdy.1]
      rfl
    have hmem : { r := r, new := plusNew (rlaVal .dma s o.rla), age := 0 } ∈ (dmaNext s o).plus := by
      rw [dmaNext_plus, hnew]
      exact List.mem_append_right _ (List.mem_singleton_self _)
    exact ⟨_, hnext, hissued, _, hmem, rfl, rfl, rfl⟩

/-- A "+" form on a constant stops (92 D25). -/
theorem stops_of_constant {i : Instr} (he : exec i s = runDma s o) (hp : o.plus = true)
    (hr : rlaReg o.rla = none) (h : DmaControl s o) : exec i s = .fault .rlaConstantIncrement :=
  he.trans (complete_fault (seq_error (seq_ok_left (controlCheck_of_control h)
    (seq_error (plusCheck_constant hp hr)))))

end

/-- Settles O26: the four instructions are runs of their DMA operations. -/
theorem dmaIssue : Obligations.DmaIssue := by
  unfold Obligations.DmaIssue
  intro s bc rla rsa ibi crcx crcy pod st rsb
  exact ⟨issues_of_runDma rfl, issues_of_runDma rfl, issues_of_runDma rfl, issues_of_runDma rfl⟩

/-- Settles O27: the "+" forms issue as the plain ones do, and on a constant `stops_of_constant`. -/
theorem dmaPlusIssue : Obligations.DmaPlusIssue := by
  unfold Obligations.DmaPlusIssue
  intro s bc rla rsa ibi crcx crcy pod st rsb o1 o2
  exact ⟨issues_of_runDma rfl, issues_of_runDma rfl, issues_of_runDma rfl, issues_of_runDma rfl,
    fun hr => ⟨stops_of_constant rfl rfl hr, stops_of_constant rfl rfl hr,
      stops_of_constant rfl rfl hr, stops_of_constant rfl rfl hr⟩⟩

end Sys2Proof.Machine
end

section
/-!
PROOFS. The pending "+" increments (44 R327; 92 D15): every instruction that runs to its end ages them alike,
and none writes the register of one or schedules a second one for it.
-/
namespace Sys2Proof.Machine

/-! ### What the passing of an instruction does to the only increment -/

/-- From `s` to `t` the only pending increment `p` went one instruction on: a new one is still owed, its
register unchanged, and an older one has landed; none other is pending for its register. -/
structure PlusPassed (s t : State) (p : PlusInc) : Prop where
  reg : t.regs[p.r] = if p.age = 0 then s.regs[p.r] else p.new
  owed : ∀ q : PlusInc, q.r = p.r → (q ∈ t.plus ↔ p.age = 0 ∧ q = { p with age := 1 })

section
variable {s t : State} {p : PlusInc}

theorem ripen_only (s : State) (p : PlusInc) :
    (ripen s [p]).regs[p.r] = if p.age = 0 then s.regs[p.r] else p.new := by
  have e : ripen s [p] = if 1 ≤ p.age then setReg s p.r p.new else s := rfl
  by_cases h : p.age = 0
  · rw [if_pos h, e.trans (if_neg (by omega))]
  · rw [if_neg h, e.trans (if_pos (by omega))]
    exact Vector.getElem_set_self ..

theorem agedPlus_only (p : PlusInc) : agedPlus [p] =
    if p.age = 0 then [{ p with age := 1 }] else [] := by
  by_cases h : p.age = 0 <;> simp [agedPlus, h]

/-- A state whose registers and increments are those of a passed instruction, but for other registers and
increments of other registers. -/
theorem PlusPassed.of_tick {extra : List PlusInc} (hs : s.plus = [p])
    (hreg : t.regs[p.r] = (ripen s s.plus).regs[p.r])
    (hplus : t.plus = agedPlus s.plus ++ extra)
    (hextra : ∀ q ∈ extra, q.r ≠ p.r) : PlusPassed s t p := by
  rw [hs] at hreg hplus
  rw [agedPlus_only] at hplus
  refine ⟨hreg.trans (ripen_only s p), fun q hq => ?_⟩
  rw [hplus, List.mem_append, or_iff_left fun h => hextra q h hq]
  by_cases h : p.age = 0 <;> simp [h]

/-- The same when the instruction schedules no increment. -/
theorem PlusPassed.of_tick_only (hs : s.plus = [p])
    (hreg : t.regs[p.r] = (ripen s s.plus).regs[p.r])
    (hplus : t.plus = agedPlus s.plus) : PlusPassed s t p :=
  .of_tick hs hreg (hplus.trans (List.append_nil _).symm) nofun

/-! ### The families of instructions -/

theorem aluCheck_dest {o : AluOp} {r : Reg} (h : aluCheck s o = .ok ()) (hr : o.rd = some r) :
    destCheck s r = .ok () := by
  unfold aluCheck at h
  obtain ⟨-, h⟩ := seq_ok.1 h
  obtain ⟨-, h⟩ := seq_ok.1 h
  obtain ⟨-, h⟩ := seq_ok.1 h
  have hdest : aluDestCheck s o.rd = .ok () := by
    cases hu : o.um <;> rw [hu] at h
    · exact (seq_ok.1 h).1
    · exact (seq_ok.1 (seq_ok.1 h).2).1
  rw [hr] at hdest
  exact (seq_ok.1 hdest).1

theorem aluNext_plus (s : State) (o : AluOp) : (aluNext s o).plus = agedPlus s.plus := by
  rw [aluNext_eq, advance_plus, aluWrite]
  cases o.rd with
  | none => simp [aluMid, agedPlus]
  | some r => cases o.um <;> simp [aluMid, agedPlus]

/-- An ALU instruction writes its destination, and R61 with the CSS reset, and no other register. -/
theorem aluNext_other {o : AluOp} {q : Reg} (hrd : ∀ r, o.rd = some r → q ≠ r) (h61 : q ≠ 61) :
    (aluNext s o).regs[q] = (ripen s s.plus).regs[q] := by
  rw [aluNext_eq, advance_regs, aluWrite, ← aluMid_regs s o]
  cases hr : o.rd with
  | none => rfl
  | some r =>
    have hw : (writeReg s (aluMid s o) r o.res).regs[q] = (aluMid s o).regs[q] := by
      refine writeReg_other s _ _ ?_
      split <;> simp [hrd r hr, h61]
    cases o.um
    · exact hw
    · exact (congrArg (·[q]) (postWrite_regs ..)).trans hw

theorem branchNext_plus (s : State) (link : Bool) (x : Target) (e : Fin 16) (sense c : Bool)
    (cso : Cso) : (branchNext s link x e sense c cso).plus = agedPlus s.plus := by
  rw [branchNext_eq, advance_plus, branchMid_rest]
  exact csoApply_plus ..

/-- A Branch instruction writes no register but its link (42 R265). -/
theorem branchNext_other {q : Reg} (link : Bool) (x : Target) (e : Fin 16) (sense c : Bool) (cso : Cso)
    (h59 : q ≠ 59) :
    (branchNext s link x e sense c cso).regs[q] = (ripen s s.plus).regs[q] := by
  rw [branchNext_eq, advance_regs, branchMid_rest]
  dsimp only
  rw [csoApply_regs, tick_regs]
  split
  · exact regs_set_other _ _ h59
  · rfl

/-- The increment that a DMA instruction schedules is for a register with none pending (44 R327). -/
theorem dmaCheck_plusOfOp {o : DmaOp} (h : dmaCheck s o = .ok ()) {q p : PlusInc}
    (hq : q ∈ plusOfOp s o) (hp : p ∈ s.plus) : q.r ≠ p.r := by
  unfold dmaCheck at h
  obtain ⟨-, h⟩ := seq_ok.1 h
  obtain ⟨-, h⟩ := seq_ok.1 h
  obtain ⟨-, h⟩ := seq_ok.1 h
  obtain ⟨hfree, -⟩ := seq_ok.1 h
  unfold plusOfOp at hq
  split at hq
  · rename_i hplus
    obtain ⟨r, hr, rfl⟩ := List.mem_map.1 hq
    have hnone := plusFreeCheck_plusOf hplus (Option.mem_toList.1 hr) hfree
    exact (plusOf_none hnone p hp).symm
  · cases hq

theorem lmfmNext_regs (s : State) (o : LmfmOp) : (lmfmNext s o).regs = (ripen s s.plus).regs := by
  unfold lmfmNext
  cases o.lnk <;> by_cases hn : o.n = 0 <;> simp [hn]

theorem lmfmNext_plus (s : State) (o : LmfmOp) : (lmfmNext s o).plus = agedPlus s.plus := by
  unfold lmfmNext
  cases o.lnk <;> by_cases hn : o.n = 0 <;> simp [hn, agedPlus]

theorem lsuNext_plusPassed (hs : s.plus = [p]) (d : Done) (srcs : List Reg) (o : LsuOp) :
    PlusPassed s (lsuNext s d srcs o) p :=
  .of_tick_only hs (by simp [lsuNext]) (by simp [lsuNext, agedPlus])

/-- Every instruction that runs to its end lets the only pending increment go one instruction on. -/
theorem exec_plusPassed {i : Instr} (hp : PendingForm s) (hs : s.plus = [p])
    (h : Completes i s t) : PlusPassed s t p := by
  obtain ⟨hexec, hwaits, hsticks⟩ := h
  have hmem : p ∈ s.plus := hs ▸ List.mem_singleton_self p
  have hne (r : Reg) (hr : r.val < 48 ∨ 51 < r.val) : p.r ≠ r := hp.no_plus hr p hmem
  cases exec_form hexec with
  | waits e => exact absurd e hwaits
  | sticks e => exact absurd e hsticks
  | alu o hc e =>
    subst e
    exact .of_tick_only hs (aluNext_other (fun r hr => (destCheck_plus (aluCheck_dest hc hr)).2 p hmem)
      (hne 61 (by decide))) (aluNext_plus s o)
  | branch link x ess sense c cso hc e =>
    subst e
    exact .of_tick_only hs (branchNext_other link x ess sense c cso (hne 59 (by decide)))
      (branchNext_plus ..)
  | css o hc e => subst e; exact .of_tick_only hs (by simp [cssNext]) (by simp [cssNext, agedPlus])
  | dma o hc e =>
    subst e
    exact .of_tick hs (by simp [dmaNext]) dmaNext_plus fun q hq => dmaCheck_plusOfOp hc hq hmem
  | fmStore hold regs src a hc e =>
    subst e
    exact .of_tick_only hs (by simp [fmStoreNext]) (by simp [fmStoreNext, agedPlus])
  | lmfm o hc e =>
    subst e
    exact .of_tick_only hs (by rw [lmfmNext_regs]) (lmfmNext_plus s o)
  | load d srcs o ho e => exact e ▸ lsuNext_plusPassed hs d srcs o
  | store d srcs o hc ho e => exact e ▸ lsuNext_plusPassed hs d srcs o

/-! ### NOP -/

/-- The flow never follows the present address and its queue back to themselves. -/
theorem Follows.moves (h : Follows s t s.fq) : ¬ (t.pc = s.pc ∧ t.fq = s.fq) := by
  rintro ⟨hpc, hfq⟩
  unfold Follows at h
  split at h
  · rw [h.1] at hpc
    exact absurd hpc (by bv_omega)
  · rename_i q hq
    rw [h.2.2, hq] at hfq
    exact List.cons_ne_self _ _ hfq.symm

/-- An instruction that lets the flow go on has neither waited nor left the SWAN stuck. -/
theorem completes_of_follows {i : Instr} (he : exec i s = .next t) (h : Follows s t s.fq) :
    Completes i s t :=
  ⟨he, fun e => h.moves (e ▸ ⟨rfl, rfl⟩), fun e => h.moves (e ▸ ⟨rfl, rfl⟩)⟩

/-- A NOP changes no register but those whose increments land, and ages the increments. -/
theorem nop_completes (hp : PendingForm s) (h : AluReady s [] 36 false 0 none) :
    ∃ t, Completes .nop s t ∧ RegsFrame s t [] ∧
      t.plus = agedPlus s.plus := by
  obtain ⟨he, hd⟩ := execLimd_ready hp h
  exact ⟨_, completes_of_follows he hd.flow, hd.regs.of_kept hd.dest,
    aluNext_plus s (limdOp 36 false 0)⟩

end

/-- Settles O29: `exec_plusPassed` for any instruction, `nop_completes` for one that does complete. -/
theorem plusSchedule : Obligations.PlusSchedule := by
  unfold Obligations.PlusSchedule
  intro s p hp hs
  refine ⟨fun i t h => ?_, fun h => ?_⟩
  · obtain ⟨hreg, howed⟩ := exec_plusPassed hp hs h
    refine ⟨fun hage => ⟨hreg.trans (if_pos hage), (howed { p with age := 1 } rfl).2 ⟨hage, rfl⟩,
      fun q hq hr => ((howed q hr).1 hq).2⟩, fun hage => ?_⟩
    have hold : p.age ≠ 0 := by omega
    exact ⟨hreg.trans (if_neg hold), fun q hq hr => hold ((howed q hr).1 hq).1⟩
  · obtain ⟨t, ht, hregs, hplus⟩ := nop_completes hp h
    rw [hs, agedPlus_only] at hplus
    refine ⟨t, ht, fun r hr => hregs r (by simp) ?_, fun hage => hplus.trans (if_pos hage),
      fun hage => hplus.trans (if_neg (by omega))⟩
    rw [hs]
    simpa using hr.symm

end Sys2Proof.Machine
end

section
/-!
PROOFS. The two DMA controllers (44 R322, R328 to R337): each moves the halfwords of its active command, one a
step, and completes the command when all its bytes are moved.
-/
namespace Sys2Proof.Machine

/-! ### A step of a controller -/

section
variable {s t : State} {c d : DmaCmd} {rest : List DmaCmd}

theorem perform_dma2_move (hq : s.q2 = c :: rest) (hs : c.started = true) (hn : c.pos < c.n)
    (hm : dma2Move s c = .ok (t, d)) :
    perform s .dma2 = .ok { t with q2 := d :: rest, draws := s.draws + 1 } := by
  change dma2Step s = _
  unfold dma2Step
  simp only [hq, hs, Bool.not_true, Bool.false_eq_true, if_false, if_pos hn, hm]
  rfl

theorem perform_dma2_done (hq : s.q2 = c :: rest) (hs : c.started = true) (hn : c.n ≤ c.pos)
    (hp : podApply s c = .ok t) : perform s .dma2 =
      .ok { t with q2 := rest, dma2Count := s.dma2Count + 1, draws := s.draws + 1 } := by
  change dma2Step s = _
  unfold dma2Step
  simp only [hq, hs, Bool.not_true, Bool.false_eq_true, if_false, if_neg (Nat.not_lt.2 hn), hp]
  rfl

theorem perform_dma1_move (hq : s.q1 = c :: rest) (hs : c.started = true) (hn : c.pos < c.n)
    (hm : dma1Move s c = .ok (t, d)) :
    perform s .dma1 = .ok { t with q1 := d :: rest, draws := s.draws + 1 } := by
  change dma1Step s = _
  unfold dma1Step
  simp only [hq, hs, Bool.not_true, Bool.false_eq_true, if_false, if_pos hn, hm]
  rfl

theorem perform_dma1_done (hq : s.q1 = c :: rest) (hs : c.started = true) (hn : c.n ≤ c.pos)
    (hp : podApply (crcDone s c) c = .ok t) :
    perform s .dma1 = .ok { t with q1 := rest, draws := s.draws + 1 } := by
  change dma1Step s = _
  unfold dma1Step
  simp only [hq, hs, Bool.not_true, Bool.false_eq_true, if_false, if_neg (Nat.not_lt.2 hn), hp]
  rfl

end

/-! ### The memories -/

/-- A port supplies the byte that its space holds (51 R473). -/
theorem portByte_of_read {s : State} {m : Sparse Byte} {a site : Nat} {b : Byte}
    (h : Memory.read m a = some b) : portByte s m a site = b := by
  rw [portByte, h]
  rfl

/-- A halfword write reads back, and every other byte as before. -/
theorem writeHalf_effect (m : Sparse Byte) (a : Nat) (v : Half) :
    readHalf (writeHalf m a v) a = some v ∧
      ∀ b, b ≠ a → b ≠ a + 1 → Memory.read (writeHalf m a v) b = Memory.read m b :=
  ⟨readHalf_writeHalf m a v, fun _ => read_writeHalf_other m a _ v⟩

/-- An erased halfword is unwritten, and every other byte reads as before. -/
theorem eraseHalf_effect (m : Sparse Byte) (a : Nat) :
    readHalf (Memory.erase (Memory.erase m a) (a + 1)) a = none ∧
      ∀ b, b ≠ a → b ≠ a + 1 →
        Memory.read (Memory.erase (Memory.erase m a) (a + 1)) b = Memory.read m b := by
  refine ⟨?_, fun b h0 h1 => ?_⟩
  · have hfirst : Memory.read (Memory.erase (Memory.erase m a) (a + 1)) a = none := by
      rw [Memory.read_erase, Memory.read_erase, if_pos rfl, ite_self]
    rw [readHalf, hfirst]
    rfl
  · rw [Memory.read_erase, if_neg h1, Memory.read_erase, if_neg h0]

/-! ### Port2 (44 R332, R333; 51 R463, R464) -/

section
variable {s : State} {c : DmaCmd}

theorem dma2Move_write {h : Half} (hw : c.write = true)
    (hr : readHalf s.cb (cbPhys (dmaLocal c c.pos)) = some h) :
    dma2Move s c =
      .ok (setPort2 s c (writeHalf (port2Space s c) (2 * port2Half c + c.pos) h),
        { c with pos := c.pos + 2 }) := by
  simp only [dma2Move, hw, if_true, hr]

theorem dma2Move_read {b0 b1 : Byte} (hw : c.write = false)
    (h0 : Memory.read (port2Space s c) (2 * port2Half c + c.pos) = some b0)
    (h1 : Memory.read (port2Space s c) (2 * port2Half c + c.pos + 1) = some b1) :
    dma2Move s c =
      .ok (cbWrite s (dmaLocal c c.pos) (halfOf b0 b1), { c with pos := c.pos + 2 }) := by
  simp only [dma2Move, hw, Bool.false_eq_true, if_false, portByte_of_read h0, portByte_of_read h1]

theorem port2Space_setPort2 (s : State) (c : DmaCmd) (m : Sparse Byte) :
    port2Space (setPort2 s c m) c = m := by
  unfold port2Space setPort2
  cases isBurst c <;> rfl

end

/-- Settles O30: a write by `dma2Move_write`, a read by `dma2Move_read`; the bytes that change are those of
one halfword. -/
theorem dmaPort2Moves : Obligations.DmaPort2Moves := by
  unfold Obligations.DmaPort2Moves
  intro s c rest hq hs hn local' port
  refine ⟨fun hw h hr => ?_, fun hw b0 b1 h0 h1 => ?_⟩
  · obtain ⟨hself, hother⟩ := writeHalf_effect (port2Space s c) port h
    have hspace := port2Space_setPort2 s c (writeHalf (port2Space s c) port h)
    refine ⟨_, perform_dma2_move hq hs hn (dma2Move_write hw hr), ?_, fun a ha ha1 => ?_, rfl, ?_⟩
    · exact (congrArg (readHalf · port) hspace).trans hself
    · exact (congrArg (Memory.read · a) hspace).trans (hother a ha ha1)
    · unfold setPort2
      cases isBurst c <;> rfl
  · obtain ⟨hself, hother⟩ := writeHalf_effect s.cb local' (halfOf b0 b1)
    exact ⟨_, perform_dma2_move hq hs hn (dma2Move_read hw h0 h1), hself, hother, rfl, rfl⟩

/-! ### Port1 (44 R330, R331, R334 to R336; 51 R461) -/

section
variable {s : State} {c : DmaCmd}

theorem dma1Move_write {h : Half} (hw : c.write = true)
    (hr : readHalf s.cb (cbPhys (dmaLocal c c.pos)) = some h) :
    dma1Move s c =
      .ok (if c.silent then s else { s with p1 := writeHalf s.p1 (port1Addr c c.pos) h },
        { c with pos := c.pos + 2, crc := crcFeed s c h }) := by
  simp only [dma1Move, hw, if_true, dma1WriteMove, hr]

theorem dma1Move_silentRead (hw : c.write = false) (hsil : c.silent = true) :
    dma1Move s c = .ok (silentReadMove s c) := by
  simp only [dma1Move, hw, hsil, Bool.false_eq_true, if_false, if_true]

theorem dma1Move_read (hw : c.write = false) (hsil : c.silent = false) :
    dma1Move s c = .ok (dma1ReadMove s c) := by
  simp only [dma1Move, hw, hsil, Bool.false_eq_true, if_false]

/-- A read that starts at an odd local address takes the byte that was set aside (44 R336). -/
theorem dma1ReadMove_oddStart {b r0 : Byte} (hodd : c.l.getLsbD 0 = true) (hpos : c.pos = 0)
    (hb : Memory.read s.p1 (port1Addr c c.pos) = some b) (hr : s.residue = some r0) :
    dma1ReadMove s c = (cbWrite s (c.l - 1) (halfOf r0 b),
      { c with pos := 1, crc := crcFeed s c (halfOf r0 b) }) := by
  have hcond : (c.l.getLsbD 0 && c.pos == 0) = true := by rw [hodd, hpos]; rfl
  simp only [dma1ReadMove, hcond, if_true, portByte_of_read hb, hr, Option.getD_some]

theorem not_oddStart (h : c.l.getLsbD 0 = true → c.pos ≠ 0) :
    (c.l.getLsbD 0 && c.pos == 0) = false := by
  cases hl : c.l.getLsbD 0
  · rfl
  · simpa using h hl

theorem dma1ReadMove_half {b0 b1 : Byte} (hodd : c.l.getLsbD 0 = true → c.pos ≠ 0)
    (hend : c.pos + 1 ≠ c.n) (h0 : Memory.read s.p1 (port1Addr c c.pos) = some b0)
    (h1 : Memory.read s.p1 (port1Addr c (c.pos + 1)) = some b1) :
    dma1ReadMove s c = (cbWrite s (dmaLocal c c.pos) (halfOf b0 b1),
      { c with pos := c.pos + 2, crc := crcFeed s c (halfOf b0 b1) }) := by
  simp only [dma1ReadMove, not_oddStart hodd, Bool.false_eq_true, if_false, if_neg hend,
    portByte_of_read h0, portByte_of_read h1]

/-- The last byte of an odd read is set aside, and its halfword becomes unwritten (44 R336; 92 D55). -/
theorem dma1ReadMove_oddEnd {b0 : Byte} (hodd : c.l.getLsbD 0 = true → c.pos ≠ 0)
    (hend : c.pos + 1 = c.n) (h0 : Memory.read s.p1 (port1Addr c c.pos) = some b0) :
    dma1ReadMove s c =
      ({ cbForget s (dmaLocal c c.pos) with residue := some b0 }, { c with pos := c.n }) := by
  simp only [dma1ReadMove, not_oddStart hodd, Bool.false_eq_true, if_false, if_pos hend,
    portByte_of_read h0]

/-- A silent read stores the complement of the high half of the partial CRC, then of the low half (44
R334(b)). -/
theorem silentReadMove_eq (s : State) (c : DmaCmd) :
    silentReadMove s c = (cbWrite s (dmaLocal c c.pos)
      (~~~ (c.crc.extractLsb' (if c.pos = 0 then 16 else 0) 16)), { c with pos := c.pos + 2 }) := by
  unfold silentReadMove
  by_cases h : c.pos = 0
  · simp only [if_pos h]
  · simp only [if_neg h]

end

/-- Settles O31: each kind of move by its equation; the bytes that change are those of one halfword. -/
theorem dmaPort1Moves : Obligations.DmaPort1Moves := by
  unfold Obligations.DmaPort1Moves
  intro s c rest hq hs hn local' port fed
  refine ⟨fun hw h hr => ?_, fun hw hsil => ?_, fun hw hsil hodd hpos b r0 hb hr0 => ?_,
    fun hw hsil hodd b0 h0 => ⟨fun b1 hend h1 => ?_, fun hend => ?_⟩⟩
  · refine ⟨_, perform_dma1_move hq hs hn (dma1Move_write hw hr), rfl, fun hsil => ?_, fun hsil => ?_⟩
    · rw [hsil]
      rfl
    · obtain ⟨hself, hother⟩ := writeHalf_effect s.p1 port h
      rw [hsil]
      exact ⟨hself, hother, rfl⟩
  · obtain ⟨hself, hother⟩ := writeHalf_effect s.cb local'
      (~~~ (c.crc.extractLsb' (if c.pos = 0 then 16 else 0) 16))
    have hmove := (dma1Move_silentRead hw hsil).trans (congrArg Except.ok (silentReadMove_eq s c))
    exact ⟨_, perform_dma1_move hq hs hn hmove, hself, hother, rfl, rfl⟩
  · obtain ⟨hself, hother⟩ := writeHalf_effect s.cb (cbPhys (c.l - 1)) (halfOf r0 b)
    have hmove := (dma1Move_read hw hsil).trans
      (congrArg Except.ok (dma1ReadMove_oddStart hodd hpos hb hr0))
    exact ⟨_, perform_dma1_move hq hs hn hmove, hself, hother, rfl, rfl⟩
  · obtain ⟨hself, hother⟩ := writeHalf_effect s.cb local' (halfOf b0 b1)
    have hmove := (dma1Move_read hw hsil).trans
      (congrArg Except.ok (dma1ReadMove_half hodd hend h0 h1))
    exact ⟨_, perform_dma1_move hq hs hn hmove, hself, hother, rfl, rfl⟩
  · obtain ⟨hself, hother⟩ := eraseHalf_effect s.cb local'
    have hmove := (dma1Move_read hw hsil).trans
      (congrArg Except.ok (dma1ReadMove_oddEnd hodd hend h0))
    exact ⟨_, perform_dma1_move hq hs hn hmove, rfl, hself, hother, rfl, rfl⟩

/-! ### Completion (44 R333 to R335, R337) -/

section
variable {s : State} {c : DmaCmd}

/-- A directive within the counters' range counts a cell out of the receiver after a write, and into the
transmitter after a read (44 R337). -/
theorem podApply_ok (hrx : c.pod = true → c.write = true → s.rxfull ≠ 0)
    (htx : c.pod = true → c.write = false → s.txbusy < txSizeOf s.regs[62]) :
    podApply s c = .ok { s with
      rxfull := if c.pod && c.write then s.rxfull - 1 else s.rxfull
      txbusy := if c.pod && ! c.write then s.txbusy + 1 else s.txbusy } := by
  unfold podApply
  cases hp : c.pod
  · rfl
  · cases hw : c.write
    · exact if_neg (Nat.not_le.2 (htx hp hw))
    · exact if_neg (hrx hp hw)

/-- The halves of a CRC value, put together again. -/
theorem crcHalves (v : BitVec 32) :
    (v.extractLsb' 16 16 ++ v.extractLsb' 0 16 : BitVec 32) = v :=
  (BitVec.extractLsb'_append_extractLsb'_eq_extractLsb' rfl).trans BitVec.extractLsb'_eq_self

/-- A cell that was set reads as it was set, whatever another one is set to after it. -/
theorem regs_set_then (g : Vector Half 64) {r q : Reg} (v w : Half) (h : r ≠ q) :
    ((g.set r v).set q w)[r] = v :=
  (regs_set_other _ w h).trans (Vector.getElem_set_self ..)

theorem crcX_setCrcPair (s : State) (v : BitVec 32) : crcX (setCrcPair s .x v) = v :=
  (congrArg₂ (fun a b : Half => (a ++ b : BitVec 32)) (Vector.getElem_set_self ..)
    (regs_set_then s.regs (r := 44) (q := 45) _ _ (by decide))).trans (crcHalves v)

theorem crcY_setCrcPair (s : State) (v : BitVec 32) : crcY (setCrcPair s .y v) = v :=
  (congrArg₂ (fun a b : Half => (a ++ b : BitVec 32)) (Vector.getElem_set_self ..)
    (regs_set_then s.regs (r := 46) (q := 47) _ _ (by decide))).trans (crcHalves v)

/-- The registers of the selected pair are the only ones that change. -/
theorem setCrcPair_other (s : State) {sel : CrcSel} (v : BitVec 32) {r : Reg}
    (h : r ∉ pairRegs sel) : (setCrcPair s sel v).regs[r] = s.regs[r] := by
  cases sel with
  | none => rfl
  | x =>
    have hr : r ≠ 44 ∧ r ≠ 45 := by simpa [pairRegs] using h
    exact (regs_set_other _ _ hr.2).trans (regs_set_other _ _ hr.1)
  | y =>
    have hr : r ≠ 46 ∧ r ≠ 47 := by simpa [pairRegs] using h
    exact (regs_set_other _ _ hr.2).trans (regs_set_other _ _ hr.1)

theorem crcX_setCrcPair_other (s : State) {sel : CrcSel} (v : BitVec 32) (h : sel ≠ .x) :
    crcX (setCrcPair s sel v) = crcX s := by
  have hsel : (44 : Reg) ∉ pairRegs sel ∧ (45 : Reg) ∉ pairRegs sel := by
    revert h
    cases sel <;> decide
  exact congrArg₂ (fun a b : Half => (a ++ b : BitVec 32)) (setCrcPair_other s v hsel.2)
    (setCrcPair_other s v hsel.1)

theorem crcY_setCrcPair_other (s : State) {sel : CrcSel} (v : BitVec 32) (h : sel ≠ .y) :
    crcY (setCrcPair s sel v) = crcY s := by
  have hsel : (46 : Reg) ∉ pairRegs sel ∧ (47 : Reg) ∉ pairRegs sel := by
    revert h
    cases sel <;> decide
  exact congrArg₂ (fun a b : Half => (a ++ b : BitVec 32)) (setCrcPair_other s v hsel.2)
    (setCrcPair_other s v hsel.1)

theorem pairRegs_range {sel : CrcSel} {r : Reg} (h : r ∈ pairRegs sel) :
    44 ≤ r.val ∧ r.val ≤ 47 := by
  revert r
  cases sel <;> decide

/-- At its completion a command changes no register but those of its pair (44 R335). -/
theorem crcDone_other (s : State) (c : DmaCmd) {r : Reg} (h : r.val < 44 ∨ 47 < r.val) :
    (crcDone s c).regs[r] = s.regs[r] :=
  setCrcPair_other s _ fun hr => by have := pairRegs_range hr; omega

theorem crcDone_frame (s : State) (c : DmaCmd) :
    crcDone s c = { s with regs := (crcDone s c).regs } := by
  unfold crcDone setCrcPair
  cases c.crcSel <;> rfl

/-- Every command but a silent read leaves its running value in its pair (44 R335). -/
theorem crcDone_running (s : State) (h : c.silent = false ∨ c.write = true) :
    crcDone s c = setCrcPair s c.crcSel c.crc := by
  unfold crcDone
  rcases h with h | h
  · rw [h]; rfl
  · rw [h, Bool.not_true, Bool.and_false]; rfl

theorem crcX_crcDone (s : State) (h : c.silent = false ∨ c.write = true) (hsel : c.crcSel = .x) :
    crcX (crcDone s c) = c.crc := by
  rw [crcDone_running s h, hsel]
  exact crcX_setCrcPair s c.crc

theorem crcY_crcDone (s : State) (h : c.silent = false ∨ c.write = true) (hsel : c.crcSel = .y) :
    crcY (crcDone s c) = c.crc := by
  rw [crcDone_running s h, hsel]
  exact crcY_setCrcPair s c.crc

/-- What the step does that completes a Port1 command. -/
theorem perform_dma1_completes {rest : List DmaCmd} (hq : s.q1 = c :: rest) (hs : c.started = true)
    (hn : c.n ≤ c.pos) (hrx : c.pod = true → c.write = true → s.rxfull ≠ 0)
    (htx : c.pod = true → c.write = false → s.txbusy < txSizeOf s.regs[62]) :
    perform s .dma1 = .ok { s with
      q1 := rest
      regs := (crcDone s c).regs
      rxfull := if c.pod && c.write then s.rxfull - 1 else s.rxfull
      txbusy := if c.pod && ! c.write then s.txbusy + 1 else s.txbusy
      draws := s.draws + 1 } := by
  have hframe := crcDone_frame s c
  have h62 : (crcDone s c).regs[(62 : Reg)] = s.regs[62] := crcDone_other s c (by decide)
  have hpod := podApply_ok (s := { s with regs := (crcDone s c).regs }) (c := c) hrx
    (h62.symm ▸ htx)
  rw [← hframe] at hpod
  rw [perform_dma1_done hq hs hn hpod, hframe]

end

/-- Settles O32: the equation of each completion, and what `crcDone` leaves in the registers. -/
theorem dmaCompletes : Obligations.DmaCompletes := by
  unfold Obligations.DmaCompletes
  intro s c rest hs hn hrx htx rxfull txbusy
  refine ⟨fun hq => ?_, fun hq hrun => ?_, fun hq hsil hw => ?_⟩
  · refine ⟨_, perform_dma2_done hq hs hn (podApply_ok hrx htx), ?_, rfl⟩
    exact BitVec.toNat_add s.dma2Count 1
  · exact ⟨_, perform_dma1_completes hq hs hn hrx htx, crcX_crcDone s hrun, crcY_crcDone s hrun,
      crcX_setCrcPair_other s _, crcY_setCrcPair_other s _, fun r => crcDone_other s c, rfl⟩
  · have hkept : (if c.pod && c.write then s.rxfull - 1 else s.rxfull) = s.rxfull :=
      if_neg (by rw [hw, Bool.and_false]; exact Bool.false_ne_true)
    have hdone := perform_dma1_completes hq hs hn hrx htx
    rw [hkept] at hdone
    exact ⟨_, hdone, crcX_setCrcPair_other s _, crcY_setCrcPair_other s _,
      fun r => crcDone_other s c, rfl⟩

end Sys2Proof.Machine
end

section
/-!
PROOFS. The instructions of Fast Memory (45 R361 to R369): LMFM, SHFM and SRH hand their work to the Fast
Memory controller, and a link leads an Update Memory write-back to the location its register came from.
-/
namespace Sys2Proof.Machine

/-! ### Issuing -/

/-- A ready LMFM completes: its next state is `lmfmNext`. -/
theorem execLmfm_ready {s : State} {rd : Reg} {lnk z : Bool} {rsa : Reg} {hw : BitVec 5} {rsb : SReg}
    (h : LmfmReady s { rd := rd, lnk := lnk, z := z, rsa := rsa, n := hw.toNat, rsb := rsb }) :
    exec (.lmfm rd lnk z rsa hw rsb) s =
      .next (lmfmNext s { rd := rd, lnk := lnk, z := z, rsa := rsa, n := hw.toNat, rsb := rsb }) :=
  complete_ok (seq_ok.2 ⟨lmfmCheck_of_ready h, rfl⟩)

/-- Settles O33: a ready LMFM completes, and its next state is that of an issued one. -/
theorem lmfmIssue : Obligations.LmfmIssue := by
  unfold Obligations.LmfmIssue
  intro s rd lnk z rsa hw rsb o h
  exact ⟨_, execLmfm_ready h, lmfmNext_issued s o⟩

/-- The data registers of SRH in the order of their codes (45 R367). -/
theorem srhSource_eq (reg : BitVec 3) :
    srhSource reg = #v[56, 37, 38, 39, 44, 45, 46, 47][reg.toNat] := by
  revert reg
  decide

/-- An SRH of the form `adr` posts its data register at the address of that form (45 R367). -/
theorem execSrh_ready {s : State} {adr : BitVec 2} {reg : BitVec 3} {rsa : Reg} {lsbs : BitVec 5}
    {rsb : SReg} (h : FmStoreReady s (srhHold adr) (srhRegs adr rsa rsb)
      #v[56, 37, 38, 39, 44, 45, 46, 47][reg.toNat] (srhAddr s adr rsa lsbs rsb)) :
    ∃ t, exec (.srh adr reg rsa lsbs rsb) s = .next t ∧
      FmStorePosted s t (srhRegs adr rsa rsb) #v[56, 37, 38, 39, 44, 45, 46, 47][reg.toNat]
        (srhAddr s adr rsa lsbs rsb) := by
  rw [← srhSource_eq] at h ⊢
  exact runFmStore_ready h

/-- Settles O34: SHFM is a run of the store of R56, and SRH in each form a run of the store of its data
register. -/
theorem fmStoreIssue : Obligations.FmStoreIssue := by
  unfold Obligations.FmStoreIssue
  intro s rsa rsb reg lsbs a src low
  exact ⟨runFmStore_ready, execSrh_ready (adr := 0), execSrh_ready (adr := 1),
    execSrh_ready (adr := 2), execSrh_ready (adr := 3)⟩

/-! ### The address of an Update Memory write-back -/

/-- A value with no bit outside a mask is not changed by it. -/
theorem and_of_andNot_eq_zero {w : Nat} {x m : BitVec w} (h : x &&& ~~~ m = 0) : x &&& m = x := by
  calc x &&& m = x &&& m ||| x &&& ~~~ m := by rw [h]; exact BitVec.or_zero.symm
    _ = x &&& (m ||| ~~~ m) := BitVec.and_or_distrib_left.symm
    _ = x := by rw [BitVec.or_not_self, BitVec.and_allOnes]

/-- The link mask of an optimised register leaves the place of a register in the group (45 R368). -/
theorem reg4_group {rd : Reg} (h : rd ∈ [16, 24, 28, 30, 31]) {k : Nat} (hk : k < 16 - rd.val % 16) :
    BitVec.ofNat 4 (rd.val + k) &&& ~~~ reg4 rd = BitVec.ofNat 4 k := by
  have hgroups : ∀ d ∈ [(16 : Reg), 24, 28, 30, 31], ∀ j < 16 - d.val % 16,
      BitVec.ofNat 4 (d.val + j) &&& ~~~ reg4 d = BitVec.ofNat 4 j := by decide
  exact hgroups rd h k hk

/-- An Update Memory address after an aligned link: the linked block, the aligned low bits, and beside them
the register's own (45 R368, R369). -/
theorem umAddr_setLink (s : State) {rd r : Reg} {a : BitVec 20}
    (h : a.extractLsb' 1 4 &&& ~~~ reg4 rd = 0) : umAddr (setLink s rd a) r =
      (a.extractLsb' 5 15 ++ (a.extractLsb' 1 4 ||| reg4 r &&& ~~~ reg4 rd) ++ (0 : BitVec 1) :
        BitVec 20) := by
  have hhi : (a.extractLsb' 5 15 ++ a.extractLsb' 1 4 : BitVec 19).extractLsb' 4 15 =
      a.extractLsb' 5 15 := BitVec.extractLsb'_append_eq_left
  have hlo : (a.extractLsb' 5 15 ++ a.extractLsb' 1 4 : BitVec 19).extractLsb' 0 4 =
      a.extractLsb' 1 4 := BitVec.extractLsb'_append_eq_right
  unfold umAddr setLink
  dsimp only
  rw [and_of_andNot_eq_zero h, hhi, hlo]

/-- Settles O35: the low bits of the aligned address and the place `k` in the group are disjoint, so that
the `OR` of the two is their sum. -/
theorem updateAddress : Obligations.UpdateAddress := by
  unfold Obligations.UpdateAddress
  intro s rd r a k hrd heven halign hk hr
  have hplace : reg4 r &&& ~~~ reg4 rd = BitVec.ofNat 4 k := by
    rw [reg4, hr]
    exact reg4_group hrd hk
  have hdisjoint : a.extractLsb' 1 4 &&& BitVec.ofNat 4 k = 0 := by
    rw [← hplace, BitVec.and_comm (reg4 r), ← BitVec.and_assoc, halign]
    exact BitVec.zero_and
  have hhalf : a.toNat % 2 = 0 := by
    simpa [BitVec.getLsbD, Nat.testBit_zero] using heven
  have hlow : (a.extractLsb' 1 4 + BitVec.ofNat 4 k).toNat = a.toNat / 2 % 16 + k % 16 := by
    rw [BitVec.toNat_add_of_and_eq_zero hdisjoint, BitVec.extractLsb'_toNat, BitVec.toNat_ofNat,
      Nat.shiftRight_eq_div_pow]
  have hhigh : (a.extractLsb' 5 15).toNat = a.toNat / 32 % 32768 := by
    rw [BitVec.extractLsb'_toNat, Nat.shiftRight_eq_div_pow]
  have hfits := hlow ▸ (a.extractLsb' 1 4 + BitVec.ofNat 4 k).isLt
  have hbound := a.isLt
  rw [umAddr_setLink s halign, hplace, ← BitVec.add_eq_or_of_and_eq_zero _ _ hdisjoint]
  apply BitVec.eq_of_toNat_eq
  rw [toNat_append_eq_add, toNat_append_eq_add, hlow, hhigh, BitVec.toNat_add, BitVec.toNat_ofNat]
  change (_ * 2 ^ 4 + _) * 2 ^ 1 + 0 = _
  omega

end Sys2Proof.Machine
end

section
/-!
PROOFS. The Fast Memory controller (45 R360, R364): a delivery is a program write, with the load of R58 for
the first halfword of a linked job, and a posted write retires into its own two bytes.
-/
namespace Sys2Proof.Machine

/-! ### What the controller reads -/

/-- Where a halfword may be read at all, a read gives one of the values it may find (20 R120; log 41). -/
theorem fmReadHalf_mayRead {s : State} {a : Nat} (h : ∃ v, MayRead s a v) (site : Nat) :
    ∃ v, fmReadHalf s a site = some v ∧ MayRead s a v := by
  unfold MayRead at *
  unfold fmReadHalf
  cases hb : buffered s a with
  | none => simpa only [hb, and_self] using h
  | some w =>
    dsimp only
    cases hf : s.cfg.fmRawForwarding with
    | true => exact ⟨w, rfl, .inl rfl⟩
    | false =>
      refine ⟨_, rfl, ?_⟩
      split
      · exact .inl rfl
      · exact .inr ⟨rfl, fun m hm => by rw [hm]; rfl⟩

/-! ### What a delivery leaves -/

/-- The state after the halfword `v` of the job `j` has landed in `r`: a program write, and for the first
halfword of a linked job the load of R58 (45 R364). -/
def landed (s : State) (j : LmfmJob) (r : Reg) (v : Half) : State :=
  if j.lnk && j.k == 0 then loadShadow (writeReg s s r v) v else writeReg s s r v

/-- The state after the delivery, with the job one halfword on or done (45 R360). -/
def delivered (s : State) (j : LmfmJob) (rest : List LmfmJob) (r : Reg) (v : Half) : State :=
  { landed s j r v with fmJobs := jobAfter j ++ rest, draws := s.draws + 1 }

/-- The controller's delivery, where the halfword read may be written (45 R360). -/
theorem perform_fmcLoad {s : State} {j : LmfmJob} {rest : List LmfmJob} {r : Reg} {v : Half}
    (hjobs : s.fmJobs = j :: rest) (hr : r.val = j.rd.val + j.k)
    (hread : fmReadHalf s (j.addr + 2 * j.k) 25 = some v) (hw : writeCheck s r v = .ok ()) :
    perform s .fmcLoad = .ok (delivered s j rest r v) := by
  have hreg : (Fin.ofNat 64 (j.rd.val + j.k) : Reg) = r := by
    rw [← hr]
    exact Fin.ext (Nat.mod_eq_of_lt r.isLt)
  change fmcLoadStep s = _
  unfold fmcLoadStep
  rw [hjobs]
  dsimp only
  rw [hread]
  dsimp only
  rw [hreg]
  exact seq_ok_left hw rfl

theorem delivered_fmJobs (s : State) (j : LmfmJob) (rest : List LmfmJob) (r : Reg) (v : Half) :
    (delivered s j rest r v).fmJobs = if j.k + 1 < j.n then { j with k := j.k + 1 } :: rest else rest := by
  change jobAfter j ++ rest = _
  unfold jobAfter
  split <;> rfl

theorem loadShadow_r58 (s : State) (v : Half) : (loadShadow s v).regs[(58 : Reg)] = v &&& 0x0FFF :=
  Vector.getElem_set_self ..

theorem loadShadow_other (s : State) (v : Half) {q : Reg} (h : q ≠ 58) :
    (loadShadow s v).regs[q] = s.regs[q] := regs_set_other _ _ h

section
variable {s : State} {j : LmfmJob} {rest : List LmfmJob} {r : Reg} {v : Half}

theorem landed_first (hl : j.lnk = true) (hk : j.k = 0) :
    landed s j r v = loadShadow (writeReg s s r v) v := by
  rw [landed, hl, hk]
  rfl

theorem landed_later (h : ¬ (j.lnk = true ∧ j.k = 0)) : landed s j r v = writeReg s s r v := by
  rw [landed, if_neg]
  simpa using h

/-- The destination of a delivery holds what its write side keeps, R58 with a link too. -/
theorem delivered_dest : (delivered s j rest r v).regs[r] = storedAs s r v := by
  change (landed s j r v).regs[r] = _
  unfold landed
  split
  · by_cases h58 : r = 58
    · subst h58
      exact loadShadow_r58 _ v
    · exact (loadShadow_other _ v h58).trans (writeReg_dest s s r v)
  · exact writeReg_dest s s r v

/-- A delivery changes its own register, R58 where it is the first of a linked job, and R61 with a CSS
reset, and no other register. -/
theorem delivered_other {q : Reg} (hqr : q ≠ r) (h58 : q = 58 → ¬ (j.lnk = true ∧ j.k = 0))
    (h61 : q = 61 → cssResets r v = false) : (delivered s j rest r v).regs[q] = s.regs[q] := by
  have hwrite : (writeReg s s r v).regs[q] = s.regs[q] := by
    refine writeReg_other s s v ?_
    split
    · rename_i hreset
      have hq61 : q ≠ 61 := fun e => Bool.false_ne_true ((h61 e).symm.trans hreset)
      simp [hqr, hq61]
    · simpa using hqr
  change (landed s j r v).regs[q] = _
  by_cases hfirst : j.lnk = true ∧ j.k = 0
  · rw [landed_first hfirst.1 hfirst.2]
    exact (loadShadow_other _ v fun e => h58 e hfirst).trans hwrite
  · rwa [landed_later hfirst]

theorem delivered_bytes : SameBytes s (delivered s j rest r v) := by
  intro a
  unfold delivered landed
  split <;> simp

theorem delivered_bits (h : cssResets r v = false) : SameBits s (delivered s j rest r v) := by
  have hsb := (writeReg_flags (w := s) (s := s) h).2
  intro a
  unfold delivered landed
  split <;> simp [hsb]

/-- The first delivery of a linked job loads R58 and leaves the record of that load (45 R364; 42 R270). -/
theorem delivered_shadow (hl : j.lnk = true) (hk : j.k = 0) :
    (delivered s j rest r v).regs[(58 : Reg)] = v &&& 0x0FFF ∧
      recOf (delivered s j rest r v) (.reg 58) = some
        { key := .reg 58, old := (writeReg s s r v).regs[(58 : Reg)], e := 0, x := 0,
          kind := .shadow } := by
  rw [delivered, landed_first hl hk]
  exact ⟨loadShadow_r58 _ v, recOf_loadShadow _ v⟩

theorem delivered_cfg : (delivered s j rest r v).cfg = s.cfg := by
  unfold delivered landed
  split <;> simp

end

/-! ### R58 after the load by a linked LMFM -/

/-- A read of R58 that nothing owes is checked against its window alone. -/
theorem readCheck_r58 {t : State} (u : Use) (h : accessOne t 58 = .ok ()) :
    readCheck u t 58 = table3Use t u 58 := by
  have hunwritten : unwrittenCheck t 58 = .ok () := raiseIf_false rfl
  have hnamed : namedCheck u t 58 = table3Use t u 58 := seq_ok_left hunwritten (seq_ok_left h rfl)
  exact (seq_of_ok rfl).trans hnamed

section
variable {t : State} {old : Half}
  (hrec : recOf t (.reg 58) = some { key := .reg 58, old := old, e := 0, x := 0, kind := .shadow })
include hrec

/-- BF and BFL may use R58 right after its load, and get what was loaded (42 R270). -/
theorem branch_reads_shadow (h : accessOne t 58 = .ok ()) :
    Readable .branch t 58 ∧ readVal .branch t 58 = t.regs[(58 : Reg)] := by
  constructor
  · refine (readCheck_r58 .branch h).trans ?_
    rw [table3Use, hrec]
    rfl
  · change table3Val t .branch 58 = _
    rw [table3Val, hrec]
    rfl

/-- An ordinary read of R58 right after its load is inside its window (70 R560, R563(a)). -/
theorem other_stops_on_shadow (h : accessOne t 58 = .ok ()) (hm : t.cfg.hazardMode = .fault) :
    readCheck .other t 58 = .error (.fault (.writeDelayHazard 58 0)) := by
  refine (readCheck_r58 .other h).trans ?_
  rw [table3Use, hrec]
  change windowStop t { key := .reg 58, old := old, e := 0, x := 0, kind := .shadow } 1 = _
  rw [windowStop, hm]
  rfl

end

/-! ### Retiring a posted write -/

section
variable {s : State} {a : Nat} {v : Half} {rest : List (Nat × Half)} (hw : s.wbuf = (a, v) :: rest)
include hw

/-- The controller retires the oldest posted write between bursts (45 R360). -/
theorem perform_fmcDrain (hb : burstActive s = false) : perform s .fmcDrain =
    .ok { s with wbuf := rest, fm := writeHalf s.fm a v, draws := s.draws + 1 } := by
  change fmcDrainStep s = _
  unfold fmcDrainStep
  rw [hw, hb]
  rfl

/-- A burst is not interrupted by a posted write (45 R360). -/
theorem perform_fmcDrain_burst (hb : burstActive s = true) :
    perform s .fmcDrain = .error .stall := by
  change fmcDrainStep s = _
  unfold fmcDrainStep
  rw [hw, hb]
  rfl

end

/-- Settles O36: the delivery is that of a value the read may find, and the drain is a halfword write. -/
theorem fmDelivery : Obligations.FmDelivery := by
  unfold Obligations.FmDelivery
  refine ⟨fun s j rest r hjobs hr hmay hwrite => ?_, fun s a v rest hw => ⟨fun hb => ?_, ?_⟩⟩
  · obtain ⟨v, hread, hv⟩ := fmReadHalf_mayRead hmay 25
    refine ⟨delivered s j rest r v, v, hv, perform_fmcLoad hjobs hr hread (hwrite v hv), delivered_dest,
      fun hl hk => ?_, fun q => delivered_other, delivered_bytes, delivered_bits, delivered_fmJobs ..⟩
    obtain ⟨h58, hrec⟩ := delivered_shadow (s := s) (rest := rest) (r := r) (v := v) hl hk
    refine ⟨h58, fun hacc => ?_⟩
    obtain ⟨hreadable, hval⟩ := branch_reads_shadow hrec hacc
    exact ⟨hreadable, hval.trans h58,
      fun hm => other_stops_on_shadow hrec hacc ((congrArg Config.hazardMode delivered_cfg).trans hm)⟩
  · obtain ⟨hval, hother⟩ := writeHalf_effect s.fm a v
    exact ⟨_, perform_fmcDrain hw hb, hval, hother, rfl⟩
  · exact perform_fmcDrain_burst hw

end Sys2Proof.Machine
end

section
/-!
PROOFS. No instruction changes a byte of memory, and none but a write that resets the Cell Scheduling System
a Scoreboard bit (45 R360; 46 R390; 43 R294, R299).
-/
namespace Sys2Proof.Machine

/-! ### Instructions that leave every memory alone -/

/-- From `s` to `t` no memory changed, the Scoreboard among them. -/
structure MemoryKept (s t : State) : Prop where
  fm : t.fm = s.fm
  cb : t.cb = s.cb
  p1 : t.p1 = s.p1
  p2b : t.p2b = s.p2b
  p2n : t.p2n = s.p2n
  sb : t.sb = s.sb

/-- A memory that is kept reads as before. -/
theorem MemoryKept.sameBytes {s t : State} (h : MemoryKept s t) : SameBytes s t := by
  obtain ⟨hfm, hcb, hp1, hp2b, hp2n, _⟩ := h
  intro a
  rw [hfm, hcb, hp1, hp2b, hp2n]
  exact ⟨rfl, rfl, rfl, rfl, rfl⟩

theorem branchNext_memory (s : State) (link : Bool) (x : Target) (e : Fin 16) (sense c : Bool)
    (cso : Cso) : MemoryKept s (branchNext s link x e sense c cso) := by
  rw [(branchNext_done s link x e sense c cso).rest]
  exact ⟨rfl, rfl, rfl, rfl, rfl, rfl⟩

theorem cssNext_memory (s : State) (o : CssIssue) : MemoryKept s (cssNext s o) := by
  constructor <;> simp [cssNext]

theorem dmaNext_memory (s : State) (o : DmaOp) : MemoryKept s (dmaNext s o) := by
  constructor <;> simp [dmaNext]

theorem fmStoreNext_memory (s : State) (regs : List Reg) (src : Reg) (a : BitVec 20) :
    MemoryKept s (fmStoreNext s regs src a) := by
  constructor <;> simp [fmStoreNext]

theorem lmfmNext_memory (s : State) (o : LmfmOp) : MemoryKept s (lmfmNext s o) := by
  rw [(lmfmNext_issued s o).rest]
  exact ⟨rfl, rfl, rfl, rfl, rfl, rfl⟩

theorem lsuNext_memory (s : State) (d : Done) (srcs : List Reg) (o : LsuOp) :
    MemoryKept s (lsuNext s d srcs o) := by
  rw [(lsuNext_issued s d srcs o).rest]
  exact ⟨rfl, rfl, rfl, rfl, rfl, rfl⟩

/-! ### ALU instructions -/

/-- An ALU instruction posts its write-back, so that only its destination write can reach a memory, and
that the Scoreboard alone. -/
theorem aluNext_memory (s : State) (o : AluOp) :
    MemoryKept { s with sb := (aluNext s o).sb } (aluNext s o) := by
  rw [aluNext_eq]
  unfold aluWrite
  cases o.rd with
  | none => constructor <;> simp
  | some r => cases o.um <;> constructor <;> simp

/-- The Scoreboard and the registers after an ALU instruction are those after its destination write. -/
theorem aluNext_dest {s : State} {o : AluOp} {r : Reg} (hr : o.rd = some r) :
    (aluNext s o).sb = (writeReg s (aluMid s o) r o.res).sb ∧
      (aluNext s o).regs = (writeReg s (aluMid s o) r o.res).regs := by
  rw [aluNext_eq, aluWrite, hr]
  cases o.um <;> simp

/-- An ALU instruction changes the Scoreboard only by a CSS reset, which leaves every bit unwritten and CR
set in R60 (43 R299; 92 D46). -/
theorem aluNext_sb {s : State} {o : AluOp} (hne : (aluNext s o).sb ≠ s.sb) :
    (aluNext s o).sb = [] ∧ (aluNext s o).regs[(60 : Reg)].getLsbD 14 = true := by
  cases hrd : o.rd with
  | none =>
    refine absurd ?_ hne
    rw [aluNext_eq, aluWrite, hrd]
    simp
  | some r =>
    obtain ⟨hsb, hregs⟩ := aluNext_dest (s := s) hrd
    rw [hsb] at hne ⊢
    rw [hregs]
    have hreset : cssResets r o.res = true := by
      by_contra hc
      exact hne (((writeReg_flags (by simpa using hc)).2).trans (aluMid_sb s o))
    obtain rfl := cssResets_eq hreset
    have hcr : o.res.getLsbD 14 = true := by simpa [cssResets] using hreset
    refine ⟨(writeReg_sb s (aluMid s o) 60 o.res).resolve_left fun e => hne (e.trans (aluMid_sb s o)), ?_⟩
    rw [writeReg_dest]
    change (o.res &&& 0xFF00).getLsbD 14 = true
    rw [BitVec.getLsbD_and, hcr]
    rfl

/-- Settles O60: of the forms of a next state only an ALU instruction's can differ in a memory, and that in
the Scoreboard. -/
theorem instructionsPost : Obligations.InstructionsPost := by
  unfold Obligations.InstructionsPost
  intro i s t _ hexec
  have kept (h : MemoryKept s t) :
      SameBytes s t ∧ (t.sb ≠ s.sb → t.sb = [] ∧ t.regs[60].getLsbD 14 = true) :=
    ⟨h.sameBytes, fun hne => absurd h.sb hne⟩
  cases exec_form hexec with
  | waits e => subst e; exact kept ⟨rfl, rfl, rfl, rfl, rfl, rfl⟩
  | sticks e => subst e; exact kept ⟨rfl, rfl, rfl, rfl, rfl, rfl⟩
  | alu o hc e =>
    subst e
    exact ⟨(aluNext_memory s o).sameBytes, aluNext_sb⟩
  | branch link x ess sense c cso hc e => exact kept (e ▸ branchNext_memory ..)
  | css o hc e => exact kept (e ▸ cssNext_memory s o)
  | dma o hc e => exact kept (e ▸ dmaNext_memory s o)
  | fmStore hold regs src a hc e => exact kept (e ▸ fmStoreNext_memory ..)
  | lmfm o hc e => exact kept (e ▸ lmfmNext_memory s o)
  | load d srcs o ho e => exact kept (e ▸ lsuNext_memory ..)
  | store d srcs o hc ho e => exact kept (e ▸ lsuNext_memory ..)

end Sys2Proof.Machine
end

section
/-!
PROOFS. The addresses of the internal RAM (46 R394; 20 R112): the target address of a load or store, and
the other half of its four bytes.
-/
namespace Sys2Proof.Machine

/-- The mask that forces bit 0 of a target address to zero, bit by bit. -/
theorem mask_even (i : Nat) (hi : i < 16) : (0xFFFE : Half).getLsbD i = decide (0 < i) :=
  (by decide : ∀ k : Fin 16, (0xFFFE : Half).getLsbD k = decide (0 < k.val)) ⟨i, hi⟩

/-- The index changes bits [5:1] of the local address, and bit 0 is zero (46 R394). -/
theorem target_fields (l : Half) (idx : BitVec 5) : target l idx =
    (l.extractLsb' 6 10 ++ (l.extractLsb' 1 5 ^^^ idx) ++ (0 : BitVec 1) : Half) := by
  refine BitVec.eq_of_getLsbD_eq fun i hi => ?_
  have hindex : ((idx.zeroExtend 16) <<< 1).getLsbD i = (decide (0 < i) && idx.getLsbD (i - 1)) := by
    rw [BitVec.getLsbD_shiftLeft, BitVec.getLsbD_setWidth]
    rcases Nat.eq_zero_or_pos i with rfl | hpos
    · rfl
    · simp [hi, hpos, show ¬ i < 1 by omega, show i - 1 < 16 by omega]
  rw [target, BitVec.getLsbD_and, BitVec.getLsbD_xor, mask_even i hi, hindex, BitVec.getLsbD_append,
    BitVec.getLsbD_append, BitVec.getLsbD_xor, BitVec.getLsbD_extractLsb', BitVec.getLsbD_extractLsb']
  rcases Nat.eq_zero_or_pos i with rfl | hpos
  · simp
  · by_cases hlow : i - 1 < 5
    · simp [hpos, hlow, show ¬ i < 1 by omega, show 1 + (i - 1) = i by omega]
    · simp [hpos, hlow, show ¬ i < 1 by omega, show i - 1 - 5 < 10 by omega,
        show 6 + (i - 1 - 5) = i by omega, BitVec.getLsbD_of_ge idx (i - 1) (by omega)]

/-! ### The other half of the pair (20 R112) -/

theorem partner_partner (t : Half) : partner (partner t) = t := by
  rw [partner, partner, BitVec.xor_assoc, BitVec.xor_self, BitVec.xor_zero]

theorem partner_bit1 (t : Half) : (partner t).getLsbD 1 = ! t.getLsbD 1 := by
  rw [partner, BitVec.getLsbD_xor]
  exact Bool.xor_true _

/-- Both halves are of the same four bytes. -/
theorem partner_div_four (t : Half) : (partner t).toNat / 4 = t.toNat / 4 := by
  rw [partner, BitVec.toNat_xor]
  exact (Nat.xor_div_two_pow (n := 2)).trans (Nat.xor_zero _)

/-- The partner of the lower half is the next halfword. -/
theorem partner_toNat_of_lower {t : Half} (h : t.getLsbD 1 = false) :
    (partner t).toNat = t.toNat + 2 := by
  have hlow : t.toNat % 4 = 0 ∨ t.toNat % 4 = 1 := by
    simp only [BitVec.getLsbD, Nat.testBit_eq_decide_div_mod_eq, decide_eq_false_iff_not] at h
    omega
  have hmod : (partner t).toNat % 4 = t.toNat % 4 ^^^ 2 := by
    rw [partner, BitVec.toNat_xor]
    exact Nat.xor_mod_two_pow (n := 2)
  have hdiv := partner_div_four t
  rcases hlow with h0 | h1
  · rw [h0] at hmod
    change _ = 2 at hmod
    omega
  · rw [h1] at hmod
    change _ = 3 at hmod
    omega

/-- The partner of the upper half is the halfword before it. -/
theorem partner_toNat_of_upper {t : Half} (h : t.getLsbD 1 = true) :
    (partner t).toNat + 2 = t.toNat := by
  have hlower : (partner t).getLsbD 1 = false := by rw [partner_bit1, h]; rfl
  rw [← partner_toNat_of_lower hlower, partner_partner]

/-- Settles O39: the fields of the target, and the pair of each half. -/
theorem targetAddress : Obligations.TargetAddress := by
  unfold Obligations.TargetAddress
  intro l idx t
  exact ⟨target_fields l idx, rfl, partner_div_four t, partner_partner t, partner_toNat_of_upper,
    partner_toNat_of_lower⟩

end Sys2Proof.Machine
end

section
/-!
PROOFS. LD, LDD, ST and STD (46 R390 to R399): each hands its operation to the load/store unit, or stops
at the first of its checks that fails.
-/
namespace Sys2Proof.Machine

/-! ### Failing checks -/

theorem raiseIf_true {c : Bool} {f : Fault} (h : c = true) : raiseIf c f = .error (.fault f) := by
  rw [h]; rfl

theorem stallIf_true {c : Bool} (h : c = true) : stallIf c = .error .stall := by
  rw [h]; rfl

/-! ### The target address (46 R392, R393; 20 R110) -/

section
variable {t : Half} {swap : BitVec 2}

/-- A swap on the Scoreboard (46 R393). -/
theorem scoreboard_swap (h : t.getLsbD 11 = true) (hs : swap ≠ 0) :
    (inScoreboard t && swap != 0) = true := by
  rw [inScoreboard, h, Bool.true_and, bne_iff_ne]
  exact hs

/-- A target that its memory has takes the swap (46 R393). -/
theorem TargetOk.swap_allowed (h : TargetOk t swap) : (inScoreboard t && swap != 0) = false :=
  raiseIf_ok.1 (seq_ok.1 (targetFaults_ok h)).1

/-- Off the Scoreboard every swap of bytes is allowed. -/
theorem swap_allowed_of_cb (h : t.getLsbD 11 = false) (swap : BitVec 2) :
    (inScoreboard t && swap != 0) = false := by
  rw [inScoreboard, h, Bool.false_and]

theorem OutsideGather.bad (h : OutsideGather t) : gatherBad t = true := by
  obtain ⟨h11, h10, hwindow⟩ := h
  rw [gatherBad, h11, h10, bne_iff_ne.2 hwindow]
  rfl

theorem targetFaults_swap (h : t.getLsbD 11 = true) (hs : swap ≠ 0) :
    targetFaults t swap = .error (.fault .scoreboardSwap) :=
  seq_error (raiseIf_true (scoreboard_swap h hs))

theorem targetFaults_gather (h : OutsideGather t) :
    targetFaults t swap = .error (.fault .gatherOutOfRange) :=
  seq_ok_left (raiseIf_false (swap_allowed_of_cb h.1 swap)) (raiseIf_true h.bad)

end

/-! ### Loads (46 R396, R397) -/

section
variable {s : State} {rd : Reg} {rla : Rla} {swap : BitVec 2} {idx : BitVec 5}

/-- A load whose operands are in order stops on the faults of its target. -/
theorem loadCheck_target_fault {t : Half} {ds : List Reg} {f : Fault}
    (hsrc : SourcesReady .other s (rlaRegs rla)) (hds : ∀ r ∈ ds, r ≠ 61 ∧ destCheck s r = .ok ())
    (hf : targetFaults t swap = .error (.fault f)) :
    loadCheck s rla swap t ds = .error (.fault f) := by
  have hwritable : ds.contains 61 = false := by
    rw [List.contains_eq_mem, decide_eq_false_iff_not]
    exact fun h => (hds 61 h).1 rfl
  exact seq_ok_left (raiseIf_false hwritable) (seq_ok_left (sourceCheck_ok.2 hsrc)
    (seq_ok_left (forM_ok.2 fun r hr => (hds r hr).2) (seq_error hf)))

theorem execLd_ready (hs : swap.getLsbD 1 = false)
    (h : LoadReady s rla swap (targetOf s rla idx) [rd]) :
    exec (.ld rd rla swap idx) s = .next (lsuNext s (loadDone s rla rd [rd]) []
      (.load1 (targetOf s rla idx) rd (swap.getLsbD 0))) :=
  complete_ok (seq_ok_left (raiseIf_false hs) (seq_ok_left (loadCheck_ok h) rfl))

/-- A single load has no other halfword to exchange (92 D16). -/
theorem execLd_swapUndefined (hs : swap.getLsbD 1 = true) :
    exec (.ld rd rla swap idx) s = .fault .swapUndefined :=
  complete_fault (seq_error (raiseIf_true hs))

theorem execLd_fault {f : Fault} (hs : swap.getLsbD 1 = false)
    (h : loadCheck s rla swap (targetOf s rla idx) [rd] = .error (.fault f)) :
    exec (.ld rd rla swap idx) s = .fault f :=
  complete_fault (seq_ok_left (raiseIf_false hs) (seq_error h))

/-- There is no register after R63 for an LDD (92 D25). -/
theorem execLdd_r63 (h : rd = 63) : exec (.ldd rd rla swap idx) s = .fault .operandClass :=
  complete_fault (seq_error (raiseIf_true (by rw [h]; rfl)))

section
variable {r2 : Reg} (hnext : r2.val = rd.val + 1)
include hnext

theorem nextReg_eq : nextReg rd = r2 := by
  unfold nextReg
  rw [← hnext]
  exact Fin.ext (Nat.mod_eq_of_lt r2.isLt)

/-- A register with one after it is not R63. -/
theorem ne_r63_of_next : (rd == 63) = false := by
  rw [beq_eq_false_iff_ne]
  rintro rfl
  have := r2.isLt
  simp at hnext
  omega

theorem execLdd_ready (h : LoadReady s rla swap (targetOf s rla idx) [rd, r2]) :
    exec (.ldd rd rla swap idx) s = .next (lsuNext s (loadDone s rla rd [rd, r2]) []
      (.load2 (targetOf s rla idx) (pairUp swap rd r2).1 (pairUp swap rd r2).2 (swap.getLsbD 0)
        false)) := by
  obtain rfl := nextReg_eq hnext
  exact complete_ok (seq_ok_left (raiseIf_false (ne_r63_of_next hnext))
    (seq_ok_left (loadCheck_ok h) rfl))

theorem execLdd_fault {f : Fault}
    (h : loadCheck s rla swap (targetOf s rla idx) [rd, r2] = .error (.fault f)) :
    exec (.ldd rd rla swap idx) s = .fault f := by
  obtain rfl := nextReg_eq hnext
  exact complete_fault (seq_ok_left (raiseIf_false (ne_r63_of_next hnext)) (seq_error h))

end
end

/-- The halfword swap exchanges what is paired with the two addresses (46 R393). -/
theorem pairUp_eq {α : Type} (swap : BitVec 2) (a b : α) :
    pairUp swap a b = (if swap.getLsbD 1 then b else a, if swap.getLsbD 1 then a else b) := by
  unfold pairUp
  split <;> rfl

/-- Settles O37: a load that is ready is issued, and one whose operands are in order stops on the fault
of its target. -/
theorem loadIssue : Obligations.LoadIssue := by
  unfold Obligations.LoadIssue
  intro s rd rla swap idx t0
  refine ⟨fun hs h => ⟨_, execLd_ready hs h, lsuNext_issued ..⟩, execLd_swapUndefined,
    fun r2 hnext h => ?_, execLdd_r63,
    fun hsrc h61 hdest => ⟨fun hs => ?_, fun r2 hnext h61' hdest' => ?_⟩⟩
  · refine ⟨_, execLdd_ready hnext h, ?_⟩
    rw [pairUp_eq]
    exact lsuNext_issued ..
  · have stops {f : Fault} (hf : targetFaults t0 swap = .error (.fault f)) :
        exec (.ld rd rla swap idx) s = .fault f :=
      execLd_fault hs (loadCheck_target_fault hsrc (List.forall_mem_singleton.2 ⟨h61, hdest⟩) hf)
    exact ⟨fun h11 hne => stops (targetFaults_swap h11 hne),
      fun hout => stops (targetFaults_gather hout)⟩
  · have stops {f : Fault} (hf : targetFaults t0 swap = .error (.fault f)) :
        exec (.ldd rd rla swap idx) s = .fault f :=
      execLdd_fault hnext (loadCheck_target_fault hsrc
        (List.forall_mem_cons.2 ⟨⟨h61, hdest⟩, List.forall_mem_singleton.2 ⟨h61', hdest'⟩⟩) hf)
    exact ⟨fun h11 hne => stops (targetFaults_swap h11 hne),
      fun hout => stops (targetFaults_gather hout)⟩

/-! ### Stores (46 R398, R399) -/

theorem holdsStore_true {s : State} {o : LsuOp} (ho : o ∈ s.lsu) (h : isStore o = true) :
    holdsStore s = true := by
  refine List.any_eq_true.2 ⟨o, ho, ?_⟩
  cases o <;> exact h

section
variable {s : State} {rsa : Reg} {rla : Rla} {swap : BitVec 2} {idx : BitVec 5}

section
variable (hs : swap.getLsbD 1 = false) (hsrc : SourcesReady .other s ([rsa] ++ rlaRegs rla))
include hs hsrc

/-- An ST into the Cell Buffer RAM completes or waits by one check: that no store is outstanding (46
R390). -/
theorem execSt_eq (hcb : (targetOf s rla idx).getLsbD 11 = false)
    (ht : TargetOk (targetOf s rla idx) swap) (hadv : CanAdvance s) :
    exec (.st swap rla rsa idx) s = complete s (do
      stallIf (holdsStore s)
      pure (lsuNext s (storeDone s rla [rsa]) [rsa]
        (.store1 (targetOf s rla idx) (swapb (swap.getLsbD 0) (readVal .other s rsa))))) :=
  congrArg (complete s) (seq_ok_left (raiseIf_false hs) (seq_ok_left (sourceCheck_ok.2 hsrc)
    (seq_ok_left (raiseIf_false ht.swap_allowed) (seq_ok_left (raiseIf_false hcb)
    (seq_ok_left (raiseIf_false (gather_ok ht)) (seq_ok_left (advanceCheck_ok hadv) rfl))))))

theorem execSt_ready (hcb : (targetOf s rla idx).getLsbD 11 = false)
    (ht : TargetOk (targetOf s rla idx) swap) (hadv : CanAdvance s)
    (hfree : ∀ o ∈ s.lsu, isStore o = false) :
    exec (.st swap rla rsa idx) s = .next (lsuNext s (storeDone s rla [rsa]) [rsa]
      (.store1 (targetOf s rla idx) (swapb (swap.getLsbD 0) (readVal .other s rsa)))) :=
  (execSt_eq hs hsrc hcb ht hadv).trans
    (complete_ok (seq_ok_left (stallIf_false (holdsStore_false hfree)) rfl))

/-- A second store waits for the first (46 R390). -/
theorem execSt_waits (hcb : (targetOf s rla idx).getLsbD 11 = false)
    (ht : TargetOk (targetOf s rla idx) swap) (hadv : CanAdvance s) {o : LsuOp} (ho : o ∈ s.lsu)
    (hstore : isStore o = true) : exec (.st swap rla rsa idx) s = .next (waiting s) :=
  (execSt_eq hs hsrc hcb ht hadv).trans
    (complete_stall (seq_error (stallIf_true (holdsStore_true ho hstore))))

/-- An ST to the Scoreboard stops, with a swap on account of the swap (46 R393, R398; 92 D25). -/
theorem execSt_scoreboard (h11 : (targetOf s rla idx).getLsbD 11 = true) :
    exec (.st swap rla rsa idx) s =
      .fault (if swap = 0 then .scoreboardHalfwordStore else .scoreboardSwap) := by
  refine complete_fault (seq_ok_left (raiseIf_false hs) (seq_ok_left (sourceCheck_ok.2 hsrc) ?_))
  by_cases hswap : swap = 0
  · rw [if_pos hswap]
    exact seq_ok_left (raiseIf_false (by rw [hswap]; exact Bool.and_false _))
      (seq_error (raiseIf_true h11))
  · rw [if_neg hswap]
    exact seq_error (raiseIf_true (scoreboard_swap h11 hswap))

theorem execSt_gather (hout : OutsideGather (targetOf s rla idx)) :
    exec (.st swap rla rsa idx) s = .fault .gatherOutOfRange :=
  complete_fault (seq_ok_left (raiseIf_false hs) (seq_ok_left (sourceCheck_ok.2 hsrc)
    (seq_ok_left (raiseIf_false (swap_allowed_of_cb hout.1 swap))
    (seq_ok_left (raiseIf_false hout.1) (seq_error (raiseIf_true hout.bad))))))

end

/-- A single store has no other halfword to exchange (92 D16). -/
theorem execSt_swapUndefined (hs : swap.getLsbD 1 = true) :
    exec (.st swap rla rsa idx) s = .fault .swapUndefined :=
  complete_fault (seq_error (raiseIf_true hs))

variable {rsb : SReg}

/-- A ready STD completes: its next state has its two halfwords in the load/store unit. -/
theorem execStd_ready (h : StoreReady s rla swap (targetOf s rla idx) [rsa, sw rsb]) :
    exec (.std swap rla rsa idx rsb) s =
      .next (lsuNext s (storeDone s rla [rsa, sw rsb]) [rsa, sw rsb] (.store2 (targetOf s rla idx)
        (swapb (swap.getLsbD 0) (pairUp swap (readVal .other s rsa) (readVal .other s (sw rsb))).1)
        (swapb (swap.getLsbD 0) (pairUp swap (readVal .other s rsa) (readVal .other s (sw rsb))).2)
        false)) := by
  obtain ⟨hsrc, ht, hcss, hadv, hfree⟩ := h
  have hidle : (inScoreboard (targetOf s rla idx) && ! s.cssq.isEmpty) = false := by
    cases h11 : (targetOf s rla idx).getLsbD 11
    · rw [inScoreboard, h11, Bool.false_and]
    · rw [hcss h11]
      exact Bool.and_false _
  exact complete_ok (seq_ok_left (sourceCheck_ok.2 hsrc) (seq_ok_left (raiseIf_false ht.swap_allowed)
    (seq_ok_left (raiseIf_false hidle) (seq_ok_left (raiseIf_false (gather_ok ht))
    (seq_ok_left (advanceCheck_ok hadv) (seq_ok_left (stallIf_false (holdsStore_false hfree)) rfl))))))

section
variable (hsrc : SourcesReady .other s ([rsa, sw rsb] ++ rlaRegs rla))
include hsrc

theorem execStd_swap (h11 : (targetOf s rla idx).getLsbD 11 = true) (hswap : swap ≠ 0) :
    exec (.std swap rla rsa idx rsb) s = .fault .scoreboardSwap :=
  complete_fault (seq_ok_left (sourceCheck_ok.2 hsrc)
    (seq_error (raiseIf_true (scoreboard_swap h11 hswap))))

/-- The Scoreboard takes no store while the Cell Scheduling System works (43 R300; 92 D46). -/
theorem execStd_cssBusy (h11 : (targetOf s rla idx).getLsbD 11 = true) (hswap : swap = 0)
    (hbusy : s.cssq ≠ []) : exec (.std swap rla rsa idx rsb) s = .fault .cssConfigBusy := by
  have hworks : (inScoreboard (targetOf s rla idx) && ! s.cssq.isEmpty) = true := by
    simp [inScoreboard, h11, hbusy]
  exact complete_fault (seq_ok_left (sourceCheck_ok.2 hsrc)
    (seq_ok_left (raiseIf_false (by rw [hswap]; exact Bool.and_false _))
    (seq_error (raiseIf_true hworks))))

theorem execStd_gather (hout : OutsideGather (targetOf s rla idx)) :
    exec (.std swap rla rsa idx rsb) s = .fault .gatherOutOfRange := by
  have hidle : (inScoreboard (targetOf s rla idx) && ! s.cssq.isEmpty) = false := by
    rw [inScoreboard, hout.1, Bool.false_and]
  exact complete_fault (seq_ok_left (sourceCheck_ok.2 hsrc)
    (seq_ok_left (raiseIf_false (swap_allowed_of_cb hout.1 swap))
    (seq_ok_left (raiseIf_false hidle) (seq_error (raiseIf_true hout.bad)))))

end
end

/-- Settles O38: an ST is issued or waits by whether a store is outstanding, an STD that is ready is
issued, and each stops on the first fault of its target. -/
theorem storeIssue : Obligations.StoreIssue := by
  unfold Obligations.StoreIssue
  intro s rsa rsb rla swap idx t0 x y
  refine ⟨fun hs hcb h => ?_, execSt_swapUndefined, fun h => ?_, fun o ho hst hsrc ht hadv hs hcb => ?_,
    fun hsrc hs => ⟨execSt_scoreboard hs hsrc, execSt_gather hs hsrc⟩,
    fun hsrc => ⟨execStd_swap hsrc, execStd_cssBusy hsrc, execStd_gather hsrc⟩⟩
  · obtain ⟨hsrc, ht, -, hadv, hfree⟩ := h
    exact ⟨_, execSt_ready hs hsrc hcb ht hadv hfree, lsuNext_issued ..⟩
  · refine ⟨_, execStd_ready h, ?_⟩
    rw [pairUp_eq, apply_ite (swapb (swap.getLsbD 0)), apply_ite (swapb (swap.getLsbD 0))]
    exact lsuNext_issued ..
  · exact execSt_waits hs hsrc hcb ht hadv ho hst

end Sys2Proof.Machine
end

section
/-!
PROOFS. The accesses of the load/store unit (46 R390, R395 to R399): a load lands as a program write, and
a store changes the halfword or the Scoreboard entries it is for.
-/
namespace Sys2Proof.Machine

/-! ### A step of the load/store unit -/

/-- The unit makes one access of its oldest operation, and keeps what is left of it (46 R390). -/
theorem perform_lsu {s u : State} {o : LsuOp} {left rest : List LsuOp} (hq : s.lsu = o :: rest)
    (ha : lsuAccess s o = .ok (u, left)) :
    perform s .lsu = .ok { u with lsu := left ++ rest, draws := s.draws + 1 } := by
  change lsuStep s = _
  unfold lsuStep
  rw [hq]
  dsimp only
  rw [ha]
  rfl

/-! ### Loads (46 R395 to R397) -/

section
variable {s : State} {t : Half} {h : Half} {r ra rb : Reg} {swap : Bool}

/-- A halfword that is written and that its register takes lands as a program write does. -/
theorem landAt_ok (hread : localRead s t = some h) (hw : writeCheck s r (swapb swap h) = .ok ()) :
    landAt s t r swap = .ok (writeReg s s r (swapb swap h)) := by
  unfold landAt
  rw [hread]
  exact seq_ok_left hw rfl

theorem lsuAccess_load1 (hread : localRead s t = some h)
    (hw : writeCheck s r (swapb swap h) = .ok ()) :
    lsuAccess s (.load1 t r swap) = .ok (writeReg s s r (swapb swap h), []) := by
  unfold lsuAccess
  dsimp only
  rw [landAt_ok hread hw]
  rfl

/-- The first access of an LDD from the Cell Buffer RAM leaves the second (92 D59). -/
theorem lsuAccess_load2_first (hcb : t.getLsbD 11 = false) (hread : localRead s t = some h)
    (hw : writeCheck s ra (swapb swap h) = .ok ()) :
    lsuAccess s (.load2 t ra rb swap false) =
      .ok (writeReg s s ra (swapb swap h), [.load2 t ra rb swap true]) := by
  unfold lsuAccess
  dsimp only
  rw [landAt_ok hread hw, inScoreboard, hcb]
  rfl

theorem lsuAccess_load2_second (hread : localRead s (partner t) = some h)
    (hw : writeCheck s rb (swapb swap h) = .ok ()) :
    lsuAccess s (.load2 t ra rb swap true) = .ok (writeReg s s rb (swapb swap h), []) := by
  unfold lsuAccess
  dsimp only
  rw [landAt_ok hread hw]
  rfl

/-- An access that lands `v` in `r` is a program write of it, and changes no byte of memory (46 R395). -/
theorem load_lands {o : LsuOp} {left rest : List LsuOp} {v : Half} (hq : s.lsu = o :: rest)
    (ha : lsuAccess s o = .ok (writeReg s s r v, left)) :
    ∃ t, perform s .lsu = .ok t ∧ t.regs[r] = storedAs s r v ∧
      (∀ q ∉ (if cssResets r v then [r, 61] else [r]), t.regs[q] = s.regs[q]) ∧
      SameBytes s t ∧ (cssResets r v = false → SameBits s t) ∧ t.lsu = left ++ rest := by
  refine ⟨_, perform_lsu hq ha, writeReg_dest s s r v, fun q => writeReg_other s s v, fun a => ?_,
    fun hc a => ?_, rfl⟩
  · simp
  · exact congrArg (Memory.read · a) (writeReg_flags (w := s) (s := s) hc).2

end

/-! ### Software registers -/

theorem writeReg_software {w s : State} {r : Reg} {v : Half} (h : r.val < 32) :
    writeReg w s r v = setReg s r v := by
  unfold writeReg
  split <;> first | rfl | omega

theorem writeCheck_software {s : State} {r : Reg} {v : Half} (h : r.val < 32) :
    writeCheck s r v = .ok () := by
  unfold writeCheck
  split <;> first | rfl | omega

/-- What a local address holds does not depend on the registers. -/
theorem localRead_setReg (s : State) (r : Reg) (v t : Half) :
    localRead (setReg s r v) t = localRead s t := rfl

/-- An LDD of two software registers from the Scoreboard takes one access (46 R397). -/
theorem lsuAccess_load2_scoreboard {s : State} {t h h2 : Half} {ra rb : Reg} {swap : Bool}
    (h11 : t.getLsbD 11 = true) (ha : ra.val < 32) (hb : rb.val < 32) (hread : localRead s t = some h)
    (hread2 : localRead s (partner t) = some h2) :
    lsuAccess s (.load2 t ra rb swap false) =
      .ok (setReg (setReg s ra (swapb swap h)) rb (swapb swap h2), []) := by
  have hfirst : landAt s t ra swap = .ok (setReg s ra (swapb swap h)) := by
    rw [landAt_ok hread (writeCheck_software ha), writeReg_software ha]
  have hsecond : landAt (setReg s ra (swapb swap h)) (partner t) rb swap =
      .ok (setReg (setReg s ra (swapb swap h)) rb (swapb swap h2)) := by
    rw [landAt_ok ((localRead_setReg ..).trans hread2) (writeCheck_software hb), writeReg_software hb]
  have hsb : inScoreboard t = true := h11
  unfold lsuAccess
  dsimp only
  rw [hfirst]
  refine (if_pos hsb).trans ?_
  rw [hsecond]
  rfl

/-- Settles O40: each access lands by `load_lands`, and the pair of the Scoreboard in one step. -/
theorem lsuLoads : Obligations.LsuLoads := by
  unfold Obligations.LsuLoads
  intro s rest t0 ra rb swap h
  refine ⟨fun t1 r hread hw hop => ?_, fun h2 hq h11 ha hb hne hread hread2 => ?_⟩
  · rcases hop with hq | ⟨rfl, rfl, hq, hcb⟩ | ⟨rfl, rfl, hq⟩
    · have hother : s.lsu ≠ .load2 t0 ra rb swap false :: rest := by simp [hq]
      rw [if_neg hother]
      exact load_lands hq (lsuAccess_load1 hread hw)
    · rw [if_pos hq]
      exact load_lands hq (lsuAccess_load2_first hcb hread hw)
    · have hother : s.lsu ≠ .load2 t0 ra r swap false :: rest := by simp [hq]
      rw [if_neg hother]
      exact load_lands hq (lsuAccess_load2_second hread hw)
  · refine ⟨_, perform_lsu hq (lsuAccess_load2_scoreboard h11 ha hb hread hread2), ?_, ?_,
      fun q hqa hqb => ?_, ⟨fun a => ⟨rfl, rfl, rfl, rfl, rfl⟩, fun a => rfl⟩, rfl⟩
    · exact (regs_set_other _ _ hne).trans (Vector.getElem_set_self ..)
    · exact Vector.getElem_set_self ..
    · exact (regs_set_other _ _ hqb).trans (regs_set_other _ _ hqa)

/-! ### Scoreboard entries (20 R111; 43 R291) -/

/-- The slots of an entry are its own. -/
theorem sbSlot_div (msb : Bool) (e : Nat) {k : Nat} (hk : k < 16) : sbSlot msb e k / 16 = e := by
  unfold sbSlot
  split <;> omega

/-- Each bit of an entry has a slot of its own. -/
theorem sbSlot_inj {msb : Bool} {e j k : Nat} (hj : j < 16) (hk : k < 16)
    (h : sbSlot msb e j = sbSlot msb e k) : j = k := by
  unfold sbSlot at h
  split at h <;> omega

section
variable {α : Type} {g : Nat → Nat} {f : Nat → α}

/-- A list of writes changes no address but theirs. -/
theorem Memory.read_foldl_write_other {a : Nat} : ∀ (l : List Nat) (m : Sparse α),
    (∀ k ∈ l, g k ≠ a) →
    Memory.read (l.foldl (fun m k => Memory.write m (g k) (f k)) m) a = Memory.read m a
  | [], _, _ => rfl
  | k :: l, m, h => by
    obtain ⟨hk, hl⟩ := List.forall_mem_cons.1 h
    exact (Memory.read_foldl_write_other l _ hl).trans (Memory.read_write_other m _ hk)

/-- A list of writes to different addresses reads back. -/
theorem Memory.read_foldl_write_mem {k : Nat} : ∀ (l : List Nat) (m : Sparse α), k ∈ l →
    (∀ j ∈ l, g j = g k → j = k) →
    Memory.read (l.foldl (fun m k => Memory.write m (g k) (f k)) m) (g k) = some (f k)
  | j :: l, m, hmem, hinj => by
    obtain ⟨hj, hl⟩ := List.forall_mem_cons.1 hinj
    by_cases hk : k ∈ l
    · exact Memory.read_foldl_write_mem l _ hk hl
    · obtain rfl : k = j := (List.mem_cons.1 hmem).resolve_right hk
      have hother : ∀ i ∈ l, g i ≠ g k := fun i hi e => hk (hl i hi e ▸ hi)
      exact (Memory.read_foldl_write_other l _ hother).trans (Memory.read_write_same m _ _)

end

section
variable (m : Sparse Bool) (msb : Bool) (e : Nat) (v : Half)

theorem read_sbWrite_slot {k : Nat} (hk : k < 16) :
    Memory.read (sbWrite m msb e v) (sbSlot msb e k) = some (v.getLsbD k) :=
  Memory.read_foldl_write_mem (g := sbSlot msb e) (f := v.getLsbD) _ m (List.mem_range.2 hk)
    fun _ hj => sbSlot_inj (List.mem_range.1 hj) hk

/-- The write of an entry leaves every other entry alone. -/
theorem read_sbWrite_other {n : Nat} (h : n / 16 ≠ e) :
    Memory.read (sbWrite m msb e v) n = Memory.read m n :=
  Memory.read_foldl_write_other (g := sbSlot msb e) (f := v.getLsbD) _ m fun _ hk hn =>
    h (hn ▸ sbSlot_div msb e (List.mem_range.1 hk))

end

/-- A list of reads that all find something gives what they find. -/
theorem mapM_eq_some_map {α β : Type} {f : α → Option β} {g : α → β} : ∀ (l : List α),
    (∀ a ∈ l, f a = some (g a)) → l.mapM f = some (l.map g)
  | [], _ => rfl
  | a :: l, h => by
    obtain ⟨ha, hl⟩ := List.forall_mem_cons.1 h
    rw [List.mapM_cons, ha, mapM_eq_some_map l hl]
    rfl

/-- An entry whose sixteen slots hold the bits of `v` reads as `v`. -/
theorem sbRead_of_slots {m : Sparse Bool} {msb : Bool} {e : Nat} {v : Half}
    (h : ∀ k, k < 16 → Memory.read m (sbSlot msb e k) = some (v.getLsbD k)) :
    sbRead m msb e = some v := by
  have hbits : (List.range 16).mapM (fun k => Memory.read m (sbSlot msb e k)) =
      some ((List.range 16).map v.getLsbD) :=
    mapM_eq_some_map _ fun k hk => h k (List.mem_range.1 hk)
  unfold sbRead
  rw [hbits]
  refine congrArg some (BitVec.eq_of_getLsbD_eq fun i hi => ?_)
  rw [BitVec.getLsbD_setWidth, BitVec.getLsbD_ofBoolListLE]
  simp [hi]

/-- Two entries written one after the other both read back, and no bit of another entry changes. -/
theorem sbWrite_pair_effect (m : Sparse Bool) (msb : Bool) {d e : Nat} (hne : d ≠ e) (x y : Half) :
    sbRead (sbWrite (sbWrite m msb d x) msb e y) msb d = some x ∧
      sbRead (sbWrite (sbWrite m msb d x) msb e y) msb e = some y ∧
      ∀ n, n / 16 ≠ d → n / 16 ≠ e →
        Memory.read (sbWrite (sbWrite m msb d x) msb e y) n = Memory.read m n := by
  refine ⟨sbRead_of_slots fun k hk => ?_, sbRead_of_slots fun k hk => read_sbWrite_slot _ _ _ _ hk,
    fun n hd he => (read_sbWrite_other _ _ _ _ he).trans (read_sbWrite_other _ _ _ _ hd)⟩
  have hkept : sbSlot msb d k / 16 ≠ e := by rwa [sbSlot_div msb d hk]
  exact (read_sbWrite_other _ _ _ _ hkept).trans (read_sbWrite_slot _ _ _ _ hk)

/-- The two entries of a pair are different ones. -/
theorem sbEntry_partner_ne (t : Half) : sbEntry (partner t) ≠ sbEntry t := by
  intro h
  have hbit := congrArg (fun e : BitVec 10 => e.getLsbD 0) (BitVec.eq_of_toNat_eq h)
  simp only [BitVec.getLsbD_extractLsb'] at hbit
  rw [partner_bit1] at hbit
  cases h1 : t.getLsbD 1 <;> simp at hbit

/-! ### Stores (46 R398, R399) -/

section
variable {s : State} {t v x y : Half}

theorem localWrite_cb (h : t.getLsbD 11 = false) :
    localWrite s t v = { s with cb := writeHalf s.cb (cbPhys t) v } := by
  rw [localWrite, inScoreboard, h]
  rfl

theorem localWrite_scoreboard (h : t.getLsbD 11 = true) :
    localWrite s t v = { s with sb := sbWrite s.sb (sbMsb s) (sbEntry t) v } := by
  rw [localWrite, inScoreboard, h]
  rfl

/-- The bit order of the Scoreboard does not depend on what it holds. -/
theorem sbMsb_with_sb (s : State) (m : Sparse Bool) : sbMsb { s with sb := m } = sbMsb s := rfl

/-- The first access of an STD to the Cell Buffer RAM leaves the second (92 D59). -/
theorem lsuAccess_store2_first (h : t.getLsbD 11 = false) :
    lsuAccess s (.store2 t x y false) = .ok (localWrite s t x, [.store2 t x y true]) := by
  rw [lsuAccess, inScoreboard, h]
  rfl

/-- Bit 11 of a local address is that of its pair. -/
theorem partner_bit11 (t : Half) : (partner t).getLsbD 11 = t.getLsbD 11 := by
  rw [partner, BitVec.getLsbD_xor]
  exact Bool.xor_false _

/-- An STD to the Scoreboard takes one access (46 R399). -/
theorem lsuAccess_store2_scoreboard (h : t.getLsbD 11 = true) :
    lsuAccess s (.store2 t x y false) = .ok ({ s with
      sb := sbWrite (sbWrite s.sb (sbMsb s) (sbEntry t) x) (sbMsb s) (sbEntry (partner t)) y }, []) := by
  rw [lsuAccess, inScoreboard, h, if_pos rfl, localWrite_scoreboard h,
    localWrite_scoreboard ((partner_bit11 t).trans h),
    sbMsb_with_sb s (sbWrite s.sb (sbMsb s) (sbEntry t) x)]

/-- An access that stores `v` at a Cell Buffer address changes that halfword and no other byte (46
R398). -/
theorem store_effect {o : LsuOp} {left rest : List LsuOp} (hcb : t.getLsbD 11 = false)
    (hq : s.lsu = o :: rest) (ha : lsuAccess s o = .ok (localWrite s t v, left)) :
    ∃ u, perform s .lsu = .ok u ∧ readHalf u.cb (cbPhys t) = some v ∧
      (∀ a, a ≠ cbPhys t → a ≠ cbPhys t + 1 → Memory.read u.cb a = Memory.read s.cb a) ∧
      u.lsu = left ++ rest ∧ u = { s with lsu := u.lsu, cb := u.cb, draws := u.draws } := by
  obtain ⟨hval, hother⟩ := writeHalf_effect s.cb (cbPhys t) v
  rw [localWrite_cb hcb] at ha
  exact ⟨_, perform_lsu hq ha, hval, hother, rfl, rfl⟩

end

/-- Settles O41: each access to the Cell Buffer RAM stores by `store_effect`; the two entries of a
Scoreboard pair are different, so that each reads back. -/
theorem lsuStores : Obligations.LsuStores := by
  unfold Obligations.LsuStores
  refine ⟨fun s rest t0 x y t1 v hcb hop => ?_, fun s rest t0 x y hq h11 => ?_⟩
  · rcases hop with hq | ⟨rfl, rfl, hq⟩ | ⟨rfl, rfl, hq⟩
    · rw [if_neg (by rw [hq]; simp)]
      exact store_effect hcb hq rfl
    · rw [if_pos hq]
      exact store_effect hcb hq (lsuAccess_store2_first hcb)
    · rw [if_neg (by rw [hq]; simp)]
      exact store_effect hcb hq rfl
  · obtain ⟨hfirst, hsecond, hother⟩ :=
      sbWrite_pair_effect s.sb (sbMsb s) (sbEntry_partner_ne t0).symm x y
    refine ⟨_, perform_lsu hq (lsuAccess_store2_scoreboard h11), ?_⟩
    dsimp only
    exact ⟨hfirst, hsecond, hother, rfl⟩

end Sys2Proof.Machine
end

section
/-!
PROOFS. The UTOPIA port (50 R425 to R436): what the reduction of a header keeps, what a step of the receiver
stores, and what a step of the transmitter reads and hands over.
-/
namespace Sys2Proof.Machine

/-! ### The reduction of a header (50 R428; 10 R68) -/

/-- A run of one to four ones inside the mask has its lowest place and its length as shape. -/
theorem maskShape_run {n p : Nat} (h1 : 1 ≤ n) (h4 : n ≤ 4) (h7 : n + p ≤ 7) :
    maskShape (BitVec.ofNat 7 ((2 ^ n - 1) * 2 ^ p)) = some (p, n) := by
  have hruns : ∀ n : Fin 5, ∀ p : Fin 7, 1 ≤ n.val → n.val + p.val ≤ 7 →
      maskShape (BitVec.ofNat 7 ((2 ^ n.val - 1) * 2 ^ p.val)) = some (p.val, n.val) := by decide
  exact hruns ⟨n, by omega⟩ ⟨p, by omega⟩ h1 h7

/-- The shape of a mask describes it. -/
theorem maskShape_some {m : BitVec 7} {p n : Nat} (h : maskShape m = some (p, n)) :
    n ≤ 4 ∧ m.toNat = (2 ^ n - 1) * 2 ^ p := by
  unfold maskShape at h
  dsimp only at h
  split at h
  · cases h
  · split at h
    next hrun =>
      cases h
      exact ⟨hrun.2.1, hrun.1⟩
    · cases h

/-- A mask of zeroes has no shape. -/
theorem maskShape_zero : maskShape 0 = none := by decide

/-- The halfword a mask with its lowest one at `p` and `n` ones leaves of a header. -/
def packedHeader (img : List Byte) (p n : Nat) : Half :=
  lowBits (headerVpi img) n <<< (9 + p) ||| lowBits (headerVci img) (8 + p) <<< 1 ||| headerClp img

section
variable {m : BitVec 7} {img : List Byte} {p n : Nat}

theorem reduce_zero : reduce 0 img = .ok (headerVci img <<< 1 ||| headerClp img) := rfl

theorem reduce_of_shape (h : maskShape m = some (p, n)) :
    reduce m img = .ok (packedHeader img p n) := by
  have hm : m ≠ 0 := by
    rintro rfl
    rw [maskShape_zero] at h
    cases h
  rw [reduce, if_neg hm, h]
  rfl

theorem reduce_of_no_shape (hm : m ≠ 0) (h : maskShape m = none) :
    reduce m img = .error (.fault .reservedReductionMask) := by
  rw [reduce, if_neg hm, h]

end

theorem lowBits_getLsbD (v : Half) (n i : Nat) :
    (lowBits v n).getLsbD i = (v.getLsbD i && decide (i < n)) := by
  rw [lowBits, BitVec.getLsbD_and]
  by_cases hi : i < 16
  · rw [lowMask_getLsbD n hi]
  · rw [BitVec.getLsbD_of_ge v i (by omega), Bool.false_and, Bool.false_and]

/-- CLP is bit 0 and nothing else. -/
theorem headerClp_getLsbD (img : List Byte) (i : Nat) :
    (headerClp img).getLsbD i = (decide (i = 0) && (headerByte img 3).getLsbD 0) := by
  rw [headerClp, BitVec.zeroExtend, BitVec.getLsbD_setWidth, BitVec.getLsbD_extractLsb']
  cases i <;> simp

/-- Equal bits 0 are equal one-bit fields. -/
theorem extract_bit_zero {a b : Nat} {x : BitVec a} {y : BitVec b} (h : x.getLsbD 0 = y.getLsbD 0) :
    x.extractLsb' 0 1 = y.extractLsb' 0 1 := by
  ext i hi
  obtain rfl : i = 0 := by omega
  simpa [BitVec.getLsbD_extractLsb'] using h

section
variable (img : List Byte)

/-- What every bit of the packed halfword is. -/
theorem packedHeader_getLsbD (p n : Nat) {i : Nat} (hi : i < 16) :
    (packedHeader img p n).getLsbD i =
      (decide (9 + p ≤ i ∧ i < 9 + p + n) && (headerVpi img).getLsbD (i - (9 + p)) ||
        decide (1 ≤ i ∧ i < 9 + p) && (headerVci img).getLsbD (i - 1) ||
        decide (i = 0) && (headerByte img 3).getLsbD 0) := by
  have hvpi : (9 + p ≤ i ∧ i < 9 + p + n) ↔ ¬ i < 9 + p ∧ i - (9 + p) < n := by omega
  have hvci : (1 ≤ i ∧ i < 9 + p) ↔ ¬ i < 1 ∧ i - 1 < 8 + p := by omega
  rw [packedHeader, BitVec.getLsbD_or, BitVec.getLsbD_or, BitVec.getLsbD_shiftLeft,
    BitVec.getLsbD_shiftLeft, lowBits_getLsbD, lowBits_getLsbD, headerClp_getLsbD]
  simp only [hvpi, hvci, hi, Bool.decide_and, decide_not, decide_true, Bool.true_and]
  ac_rfl

variable {p n : Nat}

/-- CLP stays in bit 0. -/
theorem packedHeader_clp : (packedHeader img p n).getLsbD 0 = (headerByte img 3).getLsbD 0 := by
  rw [packedHeader_getLsbD img p n (by omega), decide_eq_false (by omega), decide_eq_false (by omega)]
  rfl

/-- The low bits of VCI stand above it. -/
theorem packedHeader_vci {k : Nat} (hp : p ≤ 6) (hk : k < 8 + p) :
    (packedHeader img p n).getLsbD (1 + k) = (headerVci img).getLsbD k := by
  rw [packedHeader_getLsbD img p n (by omega), decide_eq_false (by omega), decide_eq_true (by omega),
    decide_eq_false (by omega), Nat.add_sub_cancel_left]
  simp

/-- The low bits of VPI stand above those. -/
theorem packedHeader_vpi {k : Nat} (hk : k < n) (h7 : n + p ≤ 7) :
    (packedHeader img p n).getLsbD (9 + p + k) = (headerVpi img).getLsbD k := by
  rw [packedHeader_getLsbD img p n (by omega), decide_eq_true (by omega), decide_eq_false (by omega),
    decide_eq_false (by omega), Nat.add_sub_cancel_left]
  simp

/-- Nothing stands above the bits of VPI. -/
theorem packedHeader_above {k : Nat} (hk : 9 + p + n ≤ k) :
    (packedHeader img p n).getLsbD k = false := by
  by_cases hfits : k < 16
  · rw [packedHeader_getLsbD img p n hfits, decide_eq_false (by omega), decide_eq_false (by omega),
      decide_eq_false (by omega)]
    rfl
  · exact BitVec.getLsbD_of_ge _ _ (by omega)

/-- With a mask of zeroes CLP stays in bit 0 too. -/
theorem unmasked_clp :
    (headerVci img <<< 1 ||| headerClp img).getLsbD 0 = (headerByte img 3).getLsbD 0 := by
  rw [BitVec.getLsbD_or, headerClp_getLsbD, BitVec.getLsbD_shiftLeft]
  simp

/-- With a mask of zeroes the fifteen low bits of VCI stand above CLP. -/
theorem unmasked_vci : (headerVci img <<< 1 ||| headerClp img).extractLsb' 1 15 =
    (headerVci img).extractLsb' 0 15 := by
  refine BitVec.eq_of_getLsbD_eq fun i hi => ?_
  have hfits : 1 + i < 16 := by omega
  rw [BitVec.getLsbD_extractLsb', BitVec.getLsbD_extractLsb', BitVec.getLsbD_or, headerClp_getLsbD,
    BitVec.getLsbD_shiftLeft, decide_eq_true hfits, Nat.add_sub_cancel_left]
  simp

end

/-- Settles O44: the shape of a mask of the statement's form is known (`maskShape_run`), and the halfword it
leaves is read bit by bit; a mask that has a shape is of that form (`maskShape_some`). -/
theorem headerReduction : Obligations.HeaderReduction := by
  unfold Obligations.HeaderReduction
  refine fun img => ⟨?_, fun n p h1 h4 h7 => ?_, fun m hm hno => ?_⟩
  · exact ⟨_, reduce_zero, extract_bit_zero (unmasked_clp img), unmasked_vci img⟩
  · exact ⟨_, reduce_of_shape (maskShape_run h1 h4 h7), extract_bit_zero (packedHeader_clp img),
      fun _ hk => packedHeader_vci img (by omega) hk,
      fun _ hk => packedHeader_vpi img hk h7, fun _ hk => packedHeader_above img hk⟩
  · cases hshape : maskShape m with
    | none => exact reduce_of_no_shape hm hshape
    | some shape =>
      obtain ⟨h4, hrun⟩ := maskShape_some hshape
      exact absurd hrun (hno shape.2 shape.1 h4)

end Sys2Proof.Machine
end

section
/-!
PROOFS. The UTOPIA receiver (50 R427 to R433): a step stores the next halfword of the cell or, after the last
one, its status word.
-/
namespace Sys2Proof.Machine

/-! ### The status word (50 R429) -/

section
variable {s : State} {c : RxCell}

theorem statusWord_phy : (statusWord s c).extractLsb' 0 5 = c.phy :=
  BitVec.extractLsb'_append_eq_right

theorem statusWord_pt :
    (statusWord s c).extractLsb' 5 3 = (headerByte c.img 3).extractLsb' 1 3 := by
  unfold statusWord
  rw [BitVec.extractLsb'_append_eq_of_le (by omega)]
  exact BitVec.extractLsb'_append_eq_right

theorem statusWord_crcError : (statusWord s c).getLsbD 8 = (crc10 s.cfg (sarPdu c.img) != 0) := by
  unfold statusWord
  rw [BitVec.getLsbD_append, BitVec.getLsbD_append, BitVec.getLsbD_append]
  simp

theorem statusWord_hecError : (statusWord s c).getLsbD 9 = hecError s c := by
  unfold statusWord
  rw [BitVec.getLsbD_append, BitVec.getLsbD_append, BitVec.getLsbD_append, BitVec.getLsbD_append]
  simp

/-- HE compares the HEC that came with the cell. -/
theorem hecError_of_hec {h : Byte} (hh : c.hec = some h) :
    hecError s c = (h != hec8 s.cfg (headerWord c.img)) := by
  rw [hecError, hh]

/-! ### A step with a cell in progress -/

theorem perform_rx_store {v : Half} (hc : s.rxCell = some c) (hk : 2 * c.k < c.img.length)
    (hv : rxHalf s c = .ok v) :
    perform s .rx = .ok { s with
      cb := writeHalf s.cb (64 * s.rxIdx + imageOffset c.img.length + 2 * c.k) v
      rxCell := some { c with k := c.k + 1 }
      draws := s.draws + 1 } := by
  change rxStep s = _
  rw [rxStep, hc]
  dsimp only
  rw [if_pos hk, rxStore, hv]
  rfl

theorem perform_rx_finish (hc : s.rxCell = some c) (hk : c.img.length ≤ 2 * c.k)
    (hbusy : s.rxbusy < rxSizeOf s.regs[62]) (hfull : s.rxfull < rxSizeOf s.regs[62]) :
    perform s .rx = .ok { s with
      cb := writeHalf s.cb (64 * s.rxIdx + statusOffset c.img.length) (statusWord s c)
      rxbusy := s.rxbusy + 1
      rxfull := s.rxfull + 1
      rxIdx := (s.rxIdx + 1) % rxSizeOf s.regs[62]
      rxCell := none
      draws := s.draws + 1 } := by
  change rxStep s = _
  rw [rxStep, hc]
  dsimp only
  rw [if_neg (Nat.not_lt.2 hk)]
  exact seq_ok_left (raiseIf_false (decide_eq_false (Nat.not_le.2 hbusy)))
    (seq_ok_left (raiseIf_false (decide_eq_false (Nat.not_le.2 hfull))) rfl)

/-- The halfword stored is the reduced one at the second header halfword where R62[0] asks for it, and that of
the cell elsewhere. -/
theorem rxHalf_ok {v : Half}
    (hv : if s.regs[62].getLsbD 0 = true ∧ 2 * c.k + 2 = c.img.length - 48 then
        reduce (s.regs[63].extractLsb' 0 7) c.img = .ok v
      else v = halfOf (octet c.img (2 * c.k)) (octet c.img (2 * c.k + 1))) :
    rxHalf s c = .ok v := by
  unfold rxHalf sarStart
  simp only [Bool.and_eq_true, beq_iff_eq]
  split at hv
  next hred => rw [if_pos hred, hv]
  next hplain => rw [if_neg hplain, hv]

end

/-- Settles O42: both steps write one halfword (`writeHalf_effect`), of the cell (`rxHalf_ok`) or its status
word, whose fields the lemmas on `statusWord` give. -/
theorem receiveCell : Obligations.ReceiveCell := by
  unfold Obligations.ReceiveCell
  intro s c hc len base
  refine ⟨fun hk v hv => ?_, fun hk hbusy hfull => ?_⟩
  · intro a
    obtain ⟨hstored, hother⟩ := writeHalf_effect s.cb a v
    exact ⟨_, perform_rx_store hc hk (rxHalf_ok hv), hstored, hother, rfl⟩
  · intro a
    obtain ⟨hstored, hother⟩ := writeHalf_effect s.cb a (statusWord s c)
    refine ⟨_, perform_rx_finish hc hk hbusy hfull,
      ⟨statusWord s c, hstored, statusWord_phy, statusWord_pt, ?_, fun h hh => ?_⟩, hother, rfl⟩
    · rw [statusWord_crcError, bne_iff_ne]
    · rw [statusWord_hecError, hecError_of_hec hh, bne_iff_ne]

end Sys2Proof.Machine
end

section
/-!
PROOFS. The UTOPIA transmitter (50 R425, R430 to R435): a step starts the cell of the oldest control entry,
reads a halfword of it, or hands it over with its CRC10 and its HEC.
-/
namespace Sys2Proof.Machine

/-! ### Unassigned cells (50 R431) -/

section
variable (s : State)

theorem cellLength_eq : cellLength s = 52 ∨ cellLength s = 56 := by
  unfold cellLength
  split
  · exact .inr rfl
  · exact .inl rfl

/-- A cell is a whole number of halfwords. -/
theorem cellLength_halves : 2 * (cellLength s / 2) = cellLength s := by
  rcases cellLength_eq s with h | h <;> rw [h]

theorem unassignedCell_length : (unassignedCell s).length = cellLength s := by
  rw [unassignedCell, List.length_map, List.length_range]

variable {s} {k : Nat}

theorem octet_unassignedCell (hk : k < cellLength s) :
    octet (unassignedCell s) k = unassignedOctet s k := by
  rw [octet, List.getD_eq_getElem _ _ ((unassignedCell_length s).symm ▸ hk)]
  simp [unassignedCell]

theorem unassignedOctet_zeroHeader (hcfg : s.cfg.unassigned = .zeroHeader)
    (hlow : cellLength s ≤ k + 52) (hhigh : k + 48 < cellLength s) : unassignedOctet s k = 0 := by
  rw [unassignedOctet, hcfg]
  exact if_pos ⟨by omega, by omega⟩

theorem unassignedOctet_given {l52 l56 : List Byte} (hcfg : s.cfg.unassigned = .given l52 l56) :
    unassignedOctet s k = octet (if cellLength s = 52 then l52 else l56) k := by
  rw [unassignedOctet, hcfg]

end

/-! ### The steps of the transmitter (50 R430, R434 to R436) -/

/-- The cell in progress that a control entry starts. -/
def startedCell (s : State) (e : BitVec 7) : TxCell :=
  if entryI e then { entry := e, img := unassignedCell s, k := cellLength s / 2 }
  else { entry := e, img := [], k := 0 }

/-- The cell in progress with one more halfword. -/
def fetchedCell (c : TxCell) (v : Half) : TxCell :=
  { c with img := c.img ++ [v.extractLsb' 8 8, v.extractLsb' 0 8], k := c.k + 1 }

/-- The octets of a cell as they are handed over: with their CRC10 where the entry has CG without I. -/
def finishedImage (s : State) (c : TxCell) : List Byte :=
  if entryCg c.entry && ! entryI c.entry then insertCrc10 s c.img else c.img

section
variable {s : State} {c : TxCell} {e : BitVec 7}

theorem startedCell_assigned (h : entryI e = false) :
    startedCell s e = { entry := e, img := [], k := 0 } := if_neg (by simp [h])

theorem startedCell_inserted (h : entryI e = true) :
    startedCell s e = { entry := e, img := unassignedCell s, k := cellLength s / 2 } := if_pos h

theorem finishedImage_plain (h : entryI c.entry = true ∨ entryCg c.entry = false) :
    finishedImage s c = c.img := by
  refine if_neg ?_
  rcases h with h | h <;> simp [h]

theorem finishedImage_crc (hi : entryI c.entry = false) (hcg : entryCg c.entry = true) :
    finishedImage s c = insertCrc10 s c.img := if_pos (by simp [hi, hcg])

theorem perform_txReady (hsize : txSizeOf s.regs[62] ≠ 0) (hidle : s.txCell = none)
    (hbusy : s.txbusy ≠ 0)
    (hphy : (entryPhy s.fifo[s.fifoRd]).toNat ≤ (topPhy s).toNat) :
    perform s (.txReady (entryPhy s.fifo[s.fifoRd])) = .ok { s with
      txbusy := s.txbusy - 1
      fifoRd := s.fifoRd + 1
      txCell := some (startedCell s s.fifo[s.fifoRd])
      draws := s.draws + 1 } := by
  change txStart s _ = _
  unfold txStart
  refine (if_pos (by simp [hsize, hidle, hbusy])).trans ?_
  exact seq_ok_left (raiseIf_false (decide_eq_false (Nat.not_lt.2 hphy))) rfl

theorem perform_tx_fetch {v : Half} (hc : s.txCell = some c) (hk : 2 * c.k < cellLength s)
    (hv : readHalf s.cb (0x200 + 64 * s.txIdx + imageOffset (cellLength s) + 2 * c.k) = some v) :
    perform s .tx = .ok { s with txCell := some (fetchedCell c v), draws := s.draws + 1 } := by
  change txStep s = _
  rw [txStep, hc]
  dsimp only
  rw [if_pos hk, txFetch, hv]
  rfl

theorem perform_tx_finish (hc : s.txCell = some c) (hk : cellLength s ≤ 2 * c.k)
    (hfull : s.txfull ≠ 0) :
    perform s .tx = .ok { s with
      sent := { phy := entryPhy c.entry, octets := wireOf s (finishedImage s c) } :: s.sent
      txfull := s.txfull - 1
      txIdx := if entryI c.entry = true ∧ s.cfg.txInsertAdvancesHolder = false then s.txIdx
        else (s.txIdx + 1) % txSizeOf s.regs[62]
      txCell := none
      draws := s.draws + 1 } := by
  have hstay : (entryI c.entry && ! s.cfg.txInsertAdvancesHolder) = true ↔
      entryI c.entry = true ∧ s.cfg.txInsertAdvancesHolder = false := by simp
  change txStep s = _
  rw [txStep, hc]
  dsimp only
  rw [if_neg (Nat.not_lt.2 hk), txFinish]
  refine seq_ok_left (raiseIf_false (beq_false_of_ne hfull)) ?_
  simp only [hstay]
  rfl

end

/-! ### The CRC10 of a cell (50 R431) -/

theorem octet_append_left {l : List Byte} {k : Nat} (l' : List Byte) (hk : k < l.length) :
    octet (l ++ l') k = octet l k := List.getD_append _ _ _ _ hk

theorem octet_append_right (l l' : List Byte) (k : Nat) :
    octet (l ++ l') (l.length + k) = octet l' k := by
  rw [octet, List.getD_append_right _ _ _ _ (Nat.le_add_right ..), Nat.add_sub_cancel_left, octet]

theorem exists_last_two {img : List Byte} (h : 2 ≤ img.length) : ∃ l a b, img = l ++ [a, b] := by
  have hlast : (img.drop (img.length - 2)).length = 2 := by rw [List.length_drop]; omega
  obtain ⟨a, b, hab⟩ := List.length_eq_two.1 hlast
  exact ⟨_, a, b, by rw [← hab, List.take_append_drop]⟩

/-- The octet before the last one keeps its six high bits and takes the two high bits of the CRC10. -/
def crcOctet (a : Byte) (c : BitVec 10) : Byte := (a &&& 0xFC) ||| (c.extractLsb' 8 2).zeroExtend 8

theorem insertCrc10_append (s : State) (l : List Byte) (a b : Byte) :
    insertCrc10 s (l ++ [a, b]) =
      l ++ [crcOctet a (crc10 s.cfg (sarPdu (l ++ [a &&& 0xFC, 0]))),
        (crc10 s.cfg (sarPdu (l ++ [a &&& 0xFC, 0]))).extractLsb' 0 8] := by
  have hfirst (x : Byte) (l' : List Byte) : octet (l ++ x :: l') l.length = x :=
    octet_append_right l (x :: l') 0
  simp [insertCrc10, hfirst, crcOctet]

/-- The mask of the six bits that the CRC10 leaves. -/
theorem mask_high_six {i : Nat} (hi : i < 8) : (0xFC : Byte).getLsbD i = decide (2 ≤ i) :=
  (by decide : ∀ k : Fin 8, (0xFC : Byte).getLsbD k = decide (2 ≤ k.val)) ⟨i, hi⟩

theorem crcOctet_getLsbD (a : Byte) (c : BitVec 10) {i : Nat} (hi : i < 8) :
    (crcOctet a c).getLsbD i = if 2 ≤ i then a.getLsbD i else c.getLsbD (8 + i) := by
  rw [crcOctet, BitVec.getLsbD_or, BitVec.getLsbD_and, mask_high_six hi, BitVec.zeroExtend,
    BitVec.getLsbD_setWidth, BitVec.getLsbD_extractLsb']
  by_cases h : 2 ≤ i
  · rw [if_pos h, decide_eq_true h, decide_eq_false (Nat.not_lt.2 h)]
    simp
  · rw [if_neg h, decide_eq_false h, decide_eq_true hi, decide_eq_true (Nat.not_le.1 h)]
    simp

theorem crcOctet_high (a : Byte) (c : BitVec 10) :
    (crcOctet a c).extractLsb' 2 6 = a.extractLsb' 2 6 := by
  refine BitVec.eq_of_getLsbD_eq fun i hi => ?_
  rw [BitVec.getLsbD_extractLsb', BitVec.getLsbD_extractLsb', crcOctet_getLsbD a c (by omega),
    if_pos (by omega)]

/-- The last ten bits of the cell are the CRC10. -/
theorem crcOctet_low (a : Byte) (c : BitVec 10) :
    ((crcOctet a c).extractLsb' 0 2 ++ c.extractLsb' 0 8 : BitVec 10) = c := by
  refine BitVec.eq_of_getLsbD_eq fun i hi => ?_
  rw [BitVec.getLsbD_append]
  by_cases h : i < 8
  · simp [h]
  · have hhigh : 8 + (0 + (i - 8)) = i := by omega
    rw [if_neg h, BitVec.getLsbD_extractLsb', crcOctet_getLsbD a c (by omega), if_neg (by omega), hhigh,
      decide_eq_true (by omega), Bool.true_and]

/-- The CRC10 replaces the last ten bits of a cell and leaves its length and every other bit. -/
theorem insertCrc10_effect (s : State) {img : List Byte} (h : 2 ≤ img.length) :
    let n := img.length
    let img' := insertCrc10 s img
    img'.length = n ∧ (∀ k, k + 2 < n → octet img' k = octet img k) ∧
      (octet img' (n - 2)).extractLsb' 2 6 = (octet img (n - 2)).extractLsb' 2 6 ∧
      ((octet img' (n - 2)).extractLsb' 0 2 ++ octet img' (n - 1) : BitVec 10) =
        crc10 s.cfg (sarPdu (img.take (n - 2) ++ [octet img (n - 2) &&& 0xFC, 0])) := by
  obtain ⟨l, a, b, rfl⟩ := exists_last_two h
  intro n img'
  have hn : n = l.length + 2 := by simp [n]
  have hlow : n - 2 = l.length + 0 := by omega
  have hlast : n - 1 = l.length + 1 := by omega
  have htake : (l ++ [a, b]).take (l.length + 0) = l := List.take_left
  rw [hlow, hlast, htake, show img' = _ from insertCrc10_append s l a b]
  simp only [octet_append_right]
  refine ⟨by simp [hn], fun k hk => ?_, crcOctet_high .., crcOctet_low ..⟩
  have hin : k < l.length := by omega
  rw [octet_append_left _ hin, octet_append_left _ hin]

/-! ### The octets on the wire (50 R425) -/

section
variable {s : State} (img : List Byte)

theorem wireOf_without_hec (h : hecOn s = false) : wireOf s img = img := by
  simp [wireOf, h]

/-- An 8-bit stuffer is the HEC alone. -/
theorem wireOf_hec (h : hecOn s = true) (h8 : s.regs[62].getLsbD 8 = true) :
    wireOf s img = img.take (img.length - 48) ++ [hec8 s.cfg (headerWord img)] ++
      img.drop (img.length - 48) := by
  simp only [wireOf, h, h8, if_true, sarStart]

/-- A 16-bit stuffer is the HEC and an open octet. -/
theorem wireOf_hec_stuffed (h : hecOn s = true) (h8 : s.regs[62].getLsbD 8 = false) :
    wireOf s img = img.take (img.length - 48) ++
      [hec8 s.cfg (headerWord img), drawByte s 34] ++ img.drop (img.length - 48) := by
  simp only [wireOf, h, h8, if_true, Bool.false_eq_true, if_false, sarStart]

end

/-- Settles O43: the three steps of the transmitter, with what an unassigned cell, the CRC10 and the HEC put
on the wire. -/
theorem transmitCell : Obligations.TransmitCell := by
  unfold Obligations.TransmitCell
  intro s
  refine ⟨?_, fun c v hc hk hv => ?_, fun c hc hk hfull hlen => ?_⟩
  · intro e hsize hidle hbusy hphy
    refine ⟨_, startedCell s e, perform_txReady hsize hidle hbusy hphy, startedCell_assigned,
      fun hins => ?_, rfl⟩
    rw [startedCell_inserted hins]
    refine ⟨rfl, unassignedCell_length s, (cellLength_halves s).ge, fun hcfg k hlow hhigh => ?_,
      fun l52 l56 hcfg k hk => ?_⟩
    · exact (octet_unassignedCell (by omega)).trans (unassignedOctet_zeroHeader hcfg hlow hhigh)
    · exact (octet_unassignedCell hk).trans (unassignedOctet_given hcfg)
  · refine ⟨_, fetchedCell c v, perform_tx_fetch hc hk hv, ?_, ?_, ?_, rfl, rfl, rfl⟩
    · exact List.length_append
    · exact List.take_left
    · exact (congrArg₂ halfOf (octet_append_right c.img _ 0) (octet_append_right c.img _ 1)).trans
        (halfOf_split v)
  · refine ⟨_, finishedImage s c, wireOf s (finishedImage s c), perform_tx_finish hc hk hfull,
      finishedImage_plain, fun hi hcg => ?_, wireOf_without_hec _, wireOf_hec _,
      fun h h8 => ⟨_, wireOf_hec_stuffed _ h h8⟩, rfl⟩
    have htwo : 2 ≤ c.img.length := by
      rcases cellLength_eq s with h | h <;> omega
    rw [finishedImage_crc hi hcg, ← hlen]
    exact insertCrc10_effect s htwo

end Sys2Proof.Machine
end

section
/-!
PROOFS. A step runs the instruction it has fetched and decoded, or stops where the table of slots says so (60
R523; 10 R87): the flow class that the table asks for can be read off the instruction's word.
-/
namespace Sys2Proof.Machine

/-! ### The flow class as the word shows it -/

/-- The fields of the word `w` by which an instruction has its flow class: the operation code, the
condition of an ALU word and the ESS number of a Branch word (30 R141, R154, R157). -/
inductive ShowsClass (w : Nat) : FlowClass → Prop
  | aluPlain (hcode : 32 ≤ fld w 31 26) (hcond : fld w 18 16 = 0) : ShowsClass w .plain
  | aluBranch (hcode : 32 ≤ fld w 31 26) (hcond : fld w 18 16 ≠ 0) : ShowsClass w .aluBranch
  | condBranch (hcode : fld w 31 26 < 6) (hess : fld w 25 22 ≠ 15) : ShowsClass w .condBranch
  | uncondBranch (hcode : fld w 31 26 < 6) (hess : fld w 25 22 = 15) : ShowsClass w .uncondBranch
  | other (hlow : 6 ≤ fld w 31 26) (hhigh : fld w 31 26 < 32) : ShowsClass w .plain

namespace ShowsClass
variable {w op : Nat} (hop : fld w 31 26 = op)
include hop

theorem of_abc {a : Abc} (ha : fld w 18 16 = abcCode a) (h : 32 ≤ op) : ShowsClass w (abcClass a) := by
  cases a with
  | none => exact .aluPlain (by omega) ha
  | _ => exact .aluBranch (by omega) (by rw [ha]; decide)

theorem of_cc {cc : BitVec 3} (hcc : fld w 18 16 = cc.toNat) (h : 32 ≤ op) :
    ShowsClass w (ccClass cc) := by
  unfold ccClass
  split
  · next hz => exact .aluPlain (by omega) (by rw [hcc, hz]; rfl)
  · next hnz => exact .aluBranch (by omega) (by rw [hcc]; exact fun e => hnz (BitVec.eq_of_toNat_eq e))

theorem of_ess {e : Fin 16} (he : Fin.ofNat 16 (fld w 25 22) = e) (h : op < 6) :
    ShowsClass w (essClass e) := by
  have hval : fld w 25 22 = e.val := by rw [← he, finOfNat_val (fld_lt w 25 22)]
  unfold essClass
  split
  · next h15 => exact .uncondBranch (by omega) (by rw [hval, h15]; rfl)
  · next h15 => exact .condBranch (by omega) (by rw [hval]; exact fun e => h15 (Fin.ext e))

theorem of_code (h : 6 ≤ op ∧ op < 32) : ShowsClass w .plain := .other (by omega) (by omega)

end ShowsClass

section
variable {op : Nat} (hop : op < 64) (h : 32 ≤ op) (rd : Reg) (um : Bool) (rsa : Reg)
include hop h

theorem showsClass_encAlu3 (a : Abc) (m : BitVec 4) (ae : Bool) (rsb : SReg) :
    ShowsClass (encAlu3 op rd um (abcCode a) rsa m ae rsb) (abcClass a) := by
  obtain ⟨hcode, -, -, ha, -⟩ := fields_encAlu3 hop rd um (abcCode_lt a) rsa m ae rsb
  exact .of_abc hcode ha h

theorem showsClass_encAlu3C (cc : BitVec 3) (m : BitVec 4) (ae : Bool) (rsb : SReg) :
    ShowsClass (encAlu3 op rd um cc.toNat rsa m ae rsb) (ccClass cc) := by
  obtain ⟨hcode, -, -, hcc, -⟩ := fields_encAlu3 hop rd um cc.isLt rsa m ae rsb
  exact .of_cc hcode hcc h

theorem showsClass_encAluI6 (a : Abc) (m : BitVec 4) (usi : BitVec 6) :
    ShowsClass (aluHead op rd um (abcCode a) rsa + m.toNat * 2 ^ 6 + usi.toNat) (abcClass a) := by
  obtain ⟨hcode, -, -, ha, -⟩ := fields_encAluI6 hop rd um (abcCode_lt a) rsa m usi
  exact .of_abc hcode ha h

theorem showsClass_encAluI10 (a : Abc) (si : BitVec 10) :
    ShowsClass (encAluI10 op rd um (abcCode a) rsa si) (abcClass a) := by
  obtain ⟨hcode, -, -, ha, -⟩ := fields_encAluI10 hop rd um (abcCode_lt a) rsa si
  exact .of_abc hcode ha h

theorem showsClass_encAluI10C (cc : BitVec 3) (si : BitVec 10) :
    ShowsClass (encAluI10 op rd um cc.toNat rsa si) (ccClass cc) := by
  obtain ⟨hcode, -, -, hcc, -⟩ := fields_encAluI10 hop rd um cc.isLt rsa si
  exact .of_cc hcode hcc h

theorem showsClass_encSftI (a : Abc) (m : BitVec 4) (ae top : Bool) (amt : BitVec 4) :
    ShowsClass (encSftI op rd um (abcCode a) rsa m ae top amt) (abcClass a) := by
  obtain ⟨hcode, -, -, ha, -⟩ := fields_encSftI hop rd um (abcCode_lt a) rsa m ae top amt
  exact .of_abc hcode ha h

end

theorem showsClass_encBranch {op : Nat} (h : op < 6) (e : Fin 16) (sense c : Bool) (cso : Cso)
    {wadr : Nat} (hw : wadr < 2 ^ 12) : ShowsClass (encBranch op e sense c cso wadr) (essClass e) := by
  obtain ⟨hcode, he, -⟩ := fields_encBranch (by omega : op < 64) e sense c cso hw
  exact .of_ess hcode he h

/-- The operation code of a DMA word, below 32 as its format's is below 16 (30 R161). -/
theorem code_encDma {op bc : Nat} (hop : op < 16) (hbc : bc < 256) (rla : Rla) (rsa : Reg)
    (ibi x y pod st : Bool) (rsb : SReg) :
    fld (encDma op bc rla rsa ibi x y pod st rsb) 31 26 = 2 * op + bc / 128 :=
  (fields_encDma (by omega) hbc rla rsa ibi x y pod st rsb).1

theorem showsClass_encDma {op bc : Nat} (hop : 3 ≤ op ∧ op < 16) (hbc : bc < 256) (rla : Rla)
    (rsa : Reg) (ibi x y pod st : Bool) (rsb : SReg) :
    ShowsClass (encDma op bc rla rsa ibi x y pod st rsb) .plain :=
  .of_code (code_encDma hop.2 hbc rla rsa ibi x y pod st rsb) (by omega)

/-- The word of every instruction shows its flow class (10 R87). -/
theorem encode_showsClass (i : Instr) : ShowsClass (encodeNat i) (flowClass i) := by
  cases i with
  | add | sub | and | or | xor | sft | sfta | sftc | fls =>
    exact showsClass_encAlu3 (by decide) (by decide) ..
  | max | min | cmp | cmpp => exact showsClass_encAlu3C (by decide) (by decide) ..
  | addi | subi => exact showsClass_encAluI6 (by decide) (by decide) ..
  | andi | ori | xori => exact showsClass_encAluI10 (by decide) (by decide) ..
  | maxi | mini | cmpi | cmppi => exact showsClass_encAluI10C (by decide) (by decide) ..
  | sftai | sftci | sftli | sftri => exact showsClass_encSftI (by decide) (by decide) ..
  | mv rd rsa => exact showsClass_encAluI10 (by decide) (by decide) rd false rsa .none 0
  | tset rsa mask => exact showsClass_encAluI10 (by decide) (by decide) 36 false rsa .bnz mask
  | tclr rsa mask => exact showsClass_encAluI10 (by decide) (by decide) 36 false rsa .bz mask
  | limd rd um li =>
    obtain ⟨hcode, -, -, hz, -⟩ := fields_limd rd um li
    exact .of_abc (a := .none) hcode hz (by decide)
  | nop => exact .aluPlain (by decide) (by decide)
  | bi | bil => exact showsClass_encBranch (by decide) _ _ _ _ (BitVec.isLt _)
  | br | brl | bf | bfl => exact showsClass_encBranch (by decide) _ _ _ _ (by decide)
  | dma1r | dma1w | dma2r | dma2w => exact showsClass_encDma (by decide) (BitVec.isLt _) ..
  | dma1rPlus | dma1wPlus | dma2rPlus | dma2wPlus =>
    exact showsClass_encDma (by decide) (count_plus_lt _) ..
  | popc rd rsb => exact .of_code (op := 9) (by simp only [fld, encodeNat]; omega) (by decide)
  | popf rd rsb => exact .of_code (op := 9) (by simp only [fld, encodeNat]; omega) (by decide)
  | pushc rsa rsb => exact .of_code (op := 8) (by simp only [fld, encodeNat]; omega) (by decide)
  | pushf rsa rsb => exact .of_code (op := 8) (by simp only [fld, encodeNat]; omega) (by decide)
  | lmfm rd lnk z rsa hw rsb => exact .of_code (fields_lmfm rd lnk z rsa hw rsb).1 (by decide)
  | srh adr reg rsa lsbs rsb => exact .of_code (fields_srh adr reg rsa lsbs rsb).1 (by decide)
  | shfm rsa rsb => exact .of_code (op := 23) (by simp only [fld, encodeNat]; omega) (by decide)
  | ld | ldd => exact .of_code (fields_load (by decide) ..).1 (by decide)
  | st swap rla rsa idx =>
    exact .of_code (fields_store (w := encodeNat (.st swap rla rsa idx)) (by decide : 0b010010 < 64)
      (by decide : 0 < 32) swap rla rsa idx rfl).1 (by decide)
  | std swap rla rsa idx rsb =>
    exact .of_code (fields_store (w := encodeNat (.std swap rla rsa idx rsb))
      (by decide : 0b010011 < 64) rsb.isLt swap rla rsa idx rfl).1 (by decide)

/-! ### The table of slots over the word (10 R87; 92 D42) -/

/-- A field of a number that is cut to 32 bits. -/
theorem fld_mod_word (n : Nat) {hi lo : Nat} (h : lo ≤ hi ∧ hi < 32) :
    fld (n % 2 ^ 32) hi lo = fld n hi lo := by
  have hsplit : (2 : Nat) ^ 32 = 2 ^ lo * 2 ^ (32 - lo) := by rw [← pow_add]; congr 1; omega
  unfold fld
  rw [hsplit, Nat.mod_mul_right_div_self, Nat.mod_mod_of_dvd _ (Nat.pow_dvd_pow 2 (by omega))]

/-- A field of an instruction's word is that of the encoder's number. -/
theorem encode_field (i : Instr) {hi lo : Nat} (h : lo ≤ hi ∧ hi < 32) :
    ((encode i).extractLsb' lo (hi + 1 - lo)).toNat = fld (encodeNat i) hi lo := by
  rw [toNat_extractLsb'_eq_fld, encode, BitVec.toNat_ofNat, fld_mod_word _ h]

/-- An ALU word has an operation code of 32 or more (30 R141). -/
theorem encode_bit31 (i : Instr) : (encode i).getLsbD 31 = true ↔ 32 ≤ fld (encodeNat i) 31 26 := by
  have hbit : bitAt (encode i).toNat 31 = (encode i).getLsbD 31 := by
    rw [BitVec.getLsbD, Nat.testBit_eq_decide_div_mod_eq]
    rfl
  rw [← hbit, bitAt_eq_true, ← fld_bit, encode, BitVec.toNat_ofNat, fld_mod_word _ (by decide)]
  have hjoin := fld_join (encodeNat i) 31 31 30 26 rfl
  have := fld_lt (encodeNat i) 31 31
  have := fld_lt (encodeNat i) 30 26
  omega

/-- The word is that of an ALU branch: an ALU word with a condition (30 R154). -/
def IsAluBranchWord (x : Word) : Prop := x.getLsbD 31 = true ∧ x.extractLsb' 16 3 ≠ 0

/-- The word is that of a Branch instruction (30 R141). -/
def IsBranchWord (x : Word) : Prop := (x.extractLsb' 26 6).toNat < 6

/-- The word tests no signal: its ESS number is 1111 (42 R261). -/
def IsUnconditional (x : Word) : Prop := x.extractLsb' 22 4 = 15

/-- The flow class of an instruction, from the fields of its word. -/
theorem flowClass_of_word (i : Instr) :
    (flowClass i = .aluBranch ↔ IsAluBranchWord (encode i)) ∧
      (flowClass i = .condBranch ↔ IsBranchWord (encode i) ∧ ¬ IsUnconditional (encode i)) ∧
      (flowClass i = .uncondBranch ↔ IsBranchWord (encode i) ∧ IsUnconditional (encode i)) := by
  have hcode : IsBranchWord (encode i) ↔ fld (encodeNat i) 31 26 < 6 := by
    rw [IsBranchWord, encode_field i (hi := 31) (by decide)]
  have hcond : (encode i).extractLsb' 16 3 = 0 ↔ fld (encodeNat i) 18 16 = 0 := by
    rw [← encode_field i (hi := 18) (lo := 16) (by decide)]
    exact BitVec.toNat_inj.symm
  have hess : IsUnconditional (encode i) ↔ fld (encodeNat i) 25 22 = 15 := by
    rw [← encode_field i (hi := 25) (lo := 22) (by decide)]
    exact BitVec.toNat_inj.symm
  rw [IsAluBranchWord, encode_bit31, Ne, hcond, hcode, hess]
  have hshows := encode_showsClass i
  generalize flowClass i = c at hshows ⊢
  cases hshows <;> simp only [reduceCtorEq, false_iff, true_iff] <;> omega

/-- The table of 10 R87, read from its faults. -/
theorem slotCheck_restriction (tag : FlowTag) (c : FlowClass) :
    slotCheck tag c = some .slotRestriction ↔
      tag ≠ .seq ∧ (c = .aluBranch ∨ c = .condBranch) ∨ tag = .bslot ∧ c = .uncondBranch := by
  cases tag <;> cases c <;> decide

theorem slotCheck_nested (tag : FlowTag) (c : FlowClass) :
    slotCheck tag c = some .nestedBranch ↔ (tag = .aslotT ∨ tag = .aeNt) ∧ c = .uncondBranch := by
  cases tag <;> cases c <;> decide

/-- The table knows no third fault. -/
theorem slotCheck_cases (tag : FlowTag) (c : FlowClass) : slotCheck tag c = none ∨
    slotCheck tag c = some .slotRestriction ∨ slotCheck tag c = some .nestedBranch := by
  cases tag <;> cases c <;> decide

/-! ### The step -/

theorem step_eq_swanStep {s : State} (ha : s.agenda = []) (ht : s.turn = .swan)
    (hs : s.stuck = false) : step s = swanStep s := by
  unfold step swanTurn
  rw [ha, ht, hs]
  rfl

/-- What is left of a fetch once the word at the pc is decoded is the table of slots. -/
theorem fetchInstr_of_decoded {s : State} {w : Word} {i : Instr} (hf : fetchWord s = .ok w)
    (hb : segmentBad s w = false) (hd : decodeAt s w = .ok i) :
    fetchInstr s = (do flowCheck s i; pure i) := by
  unfold fetchInstr
  rw [hf]
  refine seq_ok_left (raiseIf_false hb) ?_
  rw [hd]
  rfl

section
variable {s : State} {w : Word} {i : Instr} (ha : s.agenda = []) (ht : s.turn = .swan)
  (hs : s.stuck = false) (hf : fetchWord s = .ok w) (hb : segmentBad s w = false)
  (hd : decodeAt s w = .ok i)
include ha ht hs hf hb hd

theorem step_of_slotFault {f : Fault} (h : slotCheck s.ctag (flowClass i) = some f) :
    step s = .fault f := by
  rw [step_eq_swanStep ha ht hs, swanStep, fetchInstr_of_decoded hf hb hd, flowCheck, h]
  rfl

theorem step_of_slotOk (h : slotCheck s.ctag (flowClass i) = none) : step s = exec i (fetched s) := by
  rw [step_eq_swanStep ha ht hs, swanStep, fetchInstr_of_decoded hf hb hd, flowCheck, h]
  rfl

end

/-- Settles O5: `step_of_slotFault` and `step_of_slotOk`, with the classes of the table read from the word. -/
theorem stepRunsDecoded : Obligations.StepRunsDecoded := by
  unfold Obligations.StepRunsDecoded
  intro s w i ha ht hs hf hb hd x alu branch restricted nested
  obtain ⟨halu, hcond, huncond⟩ := flowClass_of_word i
  have hrestricted : restricted ↔ slotCheck s.ctag (flowClass i) = some .slotRestriction := by
    rw [slotCheck_restriction, halu, hcond, huncond]
    change (s.ctag ≠ .seq ∧ (IsAluBranchWord (encode i) ∨
      IsBranchWord (encode i) ∧ ¬ IsUnconditional (encode i)) ∨
      s.ctag = .bslot ∧ IsBranchWord (encode i)) ↔ _
    cases s.ctag <;> simp
    tauto
  have hnested : nested ↔ slotCheck s.ctag (flowClass i) = some .nestedBranch := by
    rw [slotCheck_nested, huncond]
    exact Iff.rfl
  rw [hrestricted, hnested]
  refine ⟨step_of_slotFault ha ht hs hf hb hd, step_of_slotFault ha ht hs hf hb hd, fun hr hn => ?_, rfl⟩
  exact step_of_slotOk ha ht hs hf hb hd
    ((slotCheck_cases s.ctag (flowClass i)).resolve_right (not_or.2 ⟨hr, hn⟩))

end Sys2Proof.Machine
end

section
/-!
PROOFS. The interval timers, the ICS latch and the mailbox (60 R530, R531; 52 R490 to R498).
-/
namespace Sys2Proof.Machine

/-! ### The timers (60 R530, R531) -/

/-- The register that holds the count of a timer. -/
def pitReg (k : Fin 2) : Reg := if k = 0 then 54 else 55

theorem pitReg_ne_r57 (k : Fin 2) : (57 : Reg) ≠ pitReg k := by fin_cases k <;> decide

theorem setPitCount_eq (s : State) (k : Fin 2) (c : Half) :
    setPitCount s k c = setReg s (pitReg k) c := by
  unfold setPitCount pitReg
  split <;> rfl

theorem pitUse_frame (s : State) (k : Fin 2) : pitUse s k =
    { s with pitEdges0 := (pitUse s k).pitEdges0, pitEdges1 := (pitUse s k).pitEdges1 } := by
  unfold pitUse
  split
  · rfl
  · split <;> rfl

/-- A clock event uses one edge of the timer's own pin, where it has one (log 30). -/
theorem pitUse_edges (s : State) (k j : Fin 2) : pitEdges (pitUse s k) j =
    if j = k ∧ pitPin s k ≠ none then pitEdges s j - 1 else pitEdges s j := by
  unfold pitUse
  cases pitPin s k with
  | none => simp
  | some p => fin_cases k <;> fin_cases j <;> rfl

/-- The registers after a clock event that leaves the count `r.1`, with the event bit set where `r.2` says
so. -/
def pitRegs (s : State) (k : Fin 2) (r : Half × Bool) : Vector Half 64 :=
  let g := s.regs.set (pitReg k) r.1
  if r.2 then g.set 57 (putBit g[57] (4 + k.val) true) else g

section
variable (s : State) (k : Fin 2) (r : Half × Bool)

theorem pitRegs_count : (pitRegs s k r)[pitReg k] = r.1 := by
  unfold pitRegs
  dsimp only
  split
  · exact (regs_set_other _ _ (pitReg_ne_r57 k).symm).trans (Vector.getElem_set_self ..)
  · exact Vector.getElem_set_self ..

theorem pitRegs_other {q : Reg} (hr : q ≠ pitReg k) (h57 : q ≠ 57) : (pitRegs s k r)[q] = s.regs[q] := by
  unfold pitRegs
  dsimp only
  split
  · exact (regs_set_other _ _ h57).trans (regs_set_other _ _ hr)
  · exact regs_set_other _ _ hr

theorem pitRegs_event {i : Nat} (hi : i < 16) : (pitRegs s k r)[57].getLsbD i = true ↔
    s.regs[57].getLsbD i = true ∨ (i = 4 + k.val ∧ r.2 = true) := by
  have h57 : (s.regs.set (pitReg k) r.1)[57] = s.regs[57] := regs_set_other _ _ (pitReg_ne_r57 k)
  unfold pitRegs
  dsimp only
  split
  · rename_i hon
    rw [Vector.getElem_set_self, putBit_bit _ _ _ hi, h57]
    by_cases e : i = 4 + k.val <;> simp [e, hon]
  · rename_i hoff
    rw [h57]
    simp [hoff]
end

/-- A clock event of a timer that is enabled, has its edge and a period (60 R531). -/
theorem perform_pit {s : State} {k : Fin 2} (hen : pitEnabled s k = true) (hedge : pitEdge s k = true)
    (hinit : pitInit s k ≠ 0) : perform s (.pit k) = .ok { s with
      regs := pitRegs s k (pitCountdown s.cfg.pitReloadAtZero (pitCount s k) (pitInit s k))
      pitEdges0 := (pitUse s k).pitEdges0
      pitEdges1 := (pitUse s k).pitEdges1
      draws := s.draws + 1 } := by
  have hgo : (pitEnabled s k && pitEdge s k) = true := by rw [hen, hedge]; rfl
  show pitStep s k = _
  unfold pitStep
  rw [if_pos hgo, if_neg hinit, pitUse_frame s k]
  dsimp only
  rw [setPitCount_eq]
  generalize pitCountdown s.cfg.pitReloadAtZero (pitCount s k) (pitInit s k) = r
  unfold pitRegs setEvent
  cases r.2 <;> rfl

theorem pitEdge_eq_false {s : State} {k : Fin 2} (hpin : pitPin s k ≠ none) (h0 : pitEdges s k = 0) :
    pitEdge s k = false := by
  have hsome : (pitPin s k).isNone = false := Option.isNone_eq_false_iff.2 (Option.isSome_iff_ne_none.2 hpin)
  rw [pitEdge, hsome, h0]
  rfl

theorem pitEdge_eq_true {s : State} {k : Fin 2} (h : pitPin s k ≠ none → pitEdges s k ≠ 0) :
    pitEdge s k = true := by
  cases hp : pitPin s k with
  | none => simp [pitEdge, hp]
  | some p => simp [pitEdge, Nat.pos_of_ne_zero (h (by simp [hp]))]

/-- The count and the time-out of a clock event (60 R530; 92 D34). -/
theorem pitCountdown_eq (reloadAtZero : Bool) (c init : Half) :
    (pitCountdown reloadAtZero c init).1 =
        (if c = 0 ∨ (reloadAtZero = true ∧ c = 1) then init else c - 1) ∧
      ((pitCountdown reloadAtZero c init).2 = true ↔
        if reloadAtZero then c.toNat ≤ 1 else c = 1) := by
  have hle : c.toNat ≤ 1 ↔ c = 0 ∨ c = 1 := by bv_omega
  unfold pitCountdown
  cases reloadAtZero with
  | false =>
    by_cases h : c = 0
    · subst h
      exact ⟨rfl, by simp⟩
    · simp only [Bool.false_eq_true, if_false, false_and, or_false, if_neg h, beq_iff_eq, and_self]
  | true =>
    by_cases h : c = 0 ∨ c = 1
    · simp only [if_true, hle, true_and, h, and_self]
    · simp only [if_true, if_false, hle, true_and, h, Bool.false_eq_true, and_self]

/-- Settles O45: a clock event that cannot happen, one without a period, and `perform_pit` for the rest. -/
theorem timerCountdown : Obligations.TimerCountdown := by
  unfold Obligations.TimerCountdown
  intro s k hen
  refine ⟨fun hpin h0 => ?_, fun hedge => ⟨fun hz => ?_, fun hnz => ?_⟩⟩
  · show pitStep s k = _
    unfold pitStep
    rw [hen, pitEdge_eq_false hpin h0]
    rfl
  · show pitStep s k = _
    unfold pitStep
    rw [hen, pitEdge_eq_true hedge, if_pos hz]
    rfl
  · obtain ⟨hcount, htimeout⟩ := pitCountdown_eq s.cfg.pitReloadAtZero (pitCount s k) (pitInit s k)
    refine ⟨_, perform_pit hen (pitEdge_eq_true hedge) hnz, (pitRegs_count ..).trans hcount,
      fun i hi => (pitRegs_event s k _ hi).trans ?_, fun q hq h57 => pitRegs_other s k _ hq h57,
      fun j => pitUse_edges s k j, rfl⟩
    rw [htimeout]

/-! ### Inter-chip signalling (52 R498) -/

theorem pinRise_eq (old new : BitVec 4) (b : Nat) : pinRise old new b =
    if old.getLsbD b = false ∧ new.getLsbD b = true then 1 else 0 := by
  unfold pinRise
  cases old.getLsbD b <;> cases new.getLsbD b <;> rfl

/-- Each rise of ICSI_D or ICSI_C is an edge for PIT0 or PIT1 (60 R531). -/
theorem icsiStep_edges (s : State) (pins : BitVec 4) (k : Fin 2) :
    pitEdges (icsiStep s pins) k = pitEdges s k + pinRise s.icsi pins (3 - k.val) := by
  fin_cases k <;> rfl

theorem icsLatched_bit (s : State) (i : Nat) : (icsLatched s).getLsbD i = true ↔
    i < 4 ∧ s.icsi.getLsbD i = true ∧ s.icsiPrev.getLsbD i = true ∧
      s.regs[63].getLsbD (8 + i) = true := by
  unfold icsLatched
  rw [BitVec.getLsbD_and, BitVec.getLsbD_and, BitVec.getLsbD_extractLsb']
  simp only [Bool.and_eq_true, decide_eq_true_eq]
  tauto

/-- The event bits after a sample (10 R61). -/
theorem icsLatchStep_event (s : State) {i : Nat} (hi : i < 16) :
    (icsLatchStep s).regs[57].getLsbD i = true ↔
      s.regs[57].getLsbD i = true ∨ (icsLatched s).getLsbD i = true := by
  have h57 : (icsLatchStep s).regs[57] = s.regs[57] ||| (icsLatched s).zeroExtend 16 :=
    Vector.getElem_set_self ..
  rw [h57, BitVec.getLsbD_or, BitVec.getLsbD_setWidth]
  simp [hi]

/-- Settles O47: the two steps, with their edges and event bits. -/
theorem interchipLatch : Obligations.InterchipLatch := by
  unfold Obligations.InterchipLatch
  refine ⟨fun s pins => ⟨icsiStep s pins, rfl, rfl, fun k => ?_, rfl⟩,
    fun s => ⟨icsLatchStep s, rfl, rfl, fun i hi => ?_, fun r hr => regs_set_other _ _ hr, rfl⟩⟩
  · rw [icsiStep_edges, pinRise_eq]
  · rw [icsLatchStep_event s hi, icsLatched_bit]

/-! ### The mailbox (52 R490 to R493) -/

theorem comm_comminStep (s : State) (v : BitVec 32) : comm (comminStep s v) = v := by
  have h40 : (comminStep s v).regs[40] = v.extractLsb' 16 16 :=
    (regs_set_other (r := 40) (q := 41) _ _ (by decide)).trans (Vector.getElem_set_self ..)
  have h41 : (comminStep s v).regs[41] = v.extractLsb' 0 16 := Vector.getElem_set_self ..
  rw [comm, h40, h41]
  refine BitVec.eq_of_getLsbD_eq fun i hi => ?_
  rw [BitVec.getLsbD_append, BitVec.getLsbD_extractLsb', BitVec.getLsbD_extractLsb']
  by_cases h : i < 16
  · simp [h]
  · have hhigh : i - 16 < 16 ∧ 16 + (i - 16) = i := by omega
    simp [h, hhigh]

/-- MV computes its source (41 R243). -/
theorem execMv_computes {s : State} (rd rsa : Reg) (hp : PendingForm s) :
    Computes (.mv rd rsa) s [rsa] rd false .none 16 false (readVal .alu s rsa) s.ovf := by
  have hmv := computes_full (i := .mv rd rsa) (alu := readVal .alu s rsa ||| sext10 0) hp rfl
  rwa [or_sext10_zero] at hmv

/-- An ALU instruction that writes R40 sets COUT_RDY (52 R492). -/
theorem aluNext_coutRdy (s : State) {o : AluOp} (hrd : o.rd = some 40) :
    (aluNext s o).coutRdy = true := by
  have hw : (writeReg s (aluMid s o) 40 o.res).coutRdy = true := rfl
  rw [aluNext_eq, aluWrite, hrd]
  cases o.um <;> simpa using hw

theorem execMv_coutRdy {s t : State} {rsa : Reg} (h : Completes (.mv 40 rsa) s t) :
    t.coutRdy = true := by
  obtain ⟨hexec, hwaits, hsticks⟩ := h
  obtain ⟨-, e⟩ | e | e := runAlu_next hexec
  · rw [e]
    exact aluNext_coutRdy s rfl
  · exact absurd e hwaits
  · exact absurd e hsticks

theorem AluDone.coutRdy_of_plain {s t : State} {srcs : List Reg} {rd : Reg} {um : Bool} {res : Half}
    {b : Option (Bool × Bool)} (h : AluDone s t srcs rd um res b) (hrd : PlainDest rd) :
    t.coutRdy = s.coutRdy := (congrArg State.coutRdy (h.plain hrd)).trans rfl

theorem cinAfter_of_ne {s : State} {rsa : Reg} (h : rsa ≠ 40) : cinAfter s [rsa] = s.cinBusy :=
  if_neg (by simpa using h.symm)

/-- Settles O46: the host's side by its two steps, the SWAN's by `execMv_computes`. -/
theorem mailboxFlags : Obligations.MailboxFlags := by
  unfold Obligations.MailboxFlags
  intro s rsa rd
  refine ⟨fun v => ⟨comminStep s v, rfl, comm_comminStep s v, rfl, fun r h40 h41 => ?_, rfl⟩,
    ⟨commoutStep s, rfl, rfl, rfl, rfl⟩, fun hp => ⟨fun h => ?_, fun h => ?_, fun hplain h => ?_⟩⟩
  · exact (regs_set_other _ _ h41).trans (regs_set_other _ _ h40)
  · obtain ⟨t, ht, hd, -⟩ := execMv_computes 40 rsa hp h
    exact ⟨t, ht, hd.dest, execMv_coutRdy (completes_of_follows ht hd.flow),
      fun hne => hd.cin.trans (cinAfter_of_ne hne)⟩
  · obtain ⟨t, ht, hd, -⟩ := execMv_computes 41 rsa hp h
    exact ⟨t, ht, hd.dest, hd.coutRdy_of_plain (by unfold PlainDest; decide),
      fun hne => hd.cin.trans (cinAfter_of_ne hne)⟩
  · obtain ⟨t, ht, hd, -⟩ := execMv_computes rd 40 hp h
    exact ⟨t, ht, hd.dest, hd.cin, hd.coutRdy_of_plain hplain⟩

end Sys2Proof.Machine
end

section
/-!
PROOFS. The function Boot (70 R553 to R558): the images it refuses, and the state it gives.
-/
namespace Sys2Proof.Machine

/-! ### The limits of R558 -/

section
variable (c : Config) (a : BitVec 16) (code : List Half)

theorem boot_fault_iff : boot c a code = .fault .bootImage ↔ (bootChecks c a code).any id = true := by
  unfold boot
  split <;> simp_all

theorem boot_next {t : State} (h : boot c a code = .next t) :
    (bootChecks c a code).any id = false ∧ t = bootState c a code := by
  unfold boot at h
  split at h
  · cases h
  · rename_i hc
    cases h
    exact ⟨by simpa using hc, rfl⟩

/-- The check of a boot path's limit: only the paths 1 and 2 have one (70 R555). -/
theorem overLimit_iff (src : BitVec 2) (n : Nat) :
    ((bootLimit src).any fun k => decide (k < n)) = true ↔ (src = 1 ∧ 4096 < n) ∨ (src = 2 ∧ 512 < n) := by
  obtain rfl | rfl | rfl | rfl := (by decide : ∀ b : BitVec 2, b = 0 ∨ b = 1 ∨ b = 2 ∨ b = 3) src <;>
    simp [bootLimit]

theorem bootChecks_eq : bootChecks c a code =
    [ c.bootSource == 0,
      code.length % 2 == 1 || code.length == 0 || decide (0x10000 ≤ code.length),
      (bootLimit c.bootSource).any fun k => decide (k < code.length / 2),
      ! isBootWord (code.getD 0 0) (bootValue code),
      bootValue code &&& 0x000C != 0,
      a.extractLsb' 11 4 == 0xF,
      (bootValue code).getLsbD 4 && a.extractLsb' 0 15 != 0,
      decide (Nat.min (fmBytes c.fmSize) 0x80000 < 4 * a.toNat + 2 * code.length) ] := by
  unfold bootChecks
  cases bootLimit c.bootSource <;> rfl

theorem isBootWord_false {hi lo : Half} : (! isBootWord hi lo) = true ↔ hi ≠ 0xFE40 ∨ lo &&& 0xFF00 ≠ 0 := by
  rw [Bool.not_eq_true', isBootWord, Bool.and_eq_false_iff, beq_eq_false_iff_ne, beq_eq_false_iff_ne]

theorem extract_low_ne_zero : a.extractLsb' 0 15 ≠ 0 ↔ a.toNat % 0x8000 ≠ 0 := by
  rw [ne_eq, ← BitVec.toNat_inj, BitVec.extractLsb'_toNat]
  rfl

theorem bootChecks_iff : (bootChecks c a code).any id = true ↔
    c.bootSource = 0 ∨ code.length % 2 = 1 ∨ code = [] ∨ 65536 ≤ code.length ∨
      (c.bootSource = 1 ∧ 4096 < code.length / 2) ∨ (c.bootSource = 2 ∧ 512 < code.length / 2) ∨
      code.getD 0 0 ≠ 0xFE40 ∨ bootValue code &&& 0xFF00 ≠ 0 ∨ bootValue code &&& 0x000C ≠ 0 ∨
      a.extractLsb' 11 4 = 0xF ∨ ((bootValue code).getLsbD 4 = true ∧ a.toNat % 0x8000 ≠ 0) ∨
      Nat.min (fmBytes c.fmSize) 0x80000 < 4 * a.toNat + 2 * code.length := by
  rw [bootChecks_eq]
  simp only [List.any_cons, List.any_nil, id, Bool.or_eq_true, Bool.or_false, Bool.and_eq_true, beq_iff_eq,
    bne_iff_ne, decide_eq_true_eq, overLimit_iff, isBootWord_false, extract_low_ne_zero,
    List.length_eq_zero_iff, or_assoc]

end

/-! ### The stored code set (70 R554) -/

theorem storeCode_wf : ∀ (code : List Half) (m : Sparse Byte) (a : Nat), Memory.wf m →
    Memory.wf (storeCode m a code)
  | [], _, _, h => h
  | _ :: code, _, _, h => storeCode_wf code _ _ (writeHalf_wf _ _ h)

theorem read_storeCode_other : ∀ (code : List Half) (m : Sparse Byte) {a b : Nat},
    b < a ∨ a + 2 * code.length ≤ b → Memory.read (storeCode m a code) b = Memory.read m b
  | [], _, _, _, _ => rfl
  | v :: code, m, a, b, h => by
    rw [List.length_cons] at h
    rw [storeCode, read_storeCode_other code _ (by omega), read_writeHalf_other _ _ _ _ (by omega) (by omega)]

/-- Two memories that agree on a halfword's bytes agree on the halfword. -/
theorem readHalf_congr {m n : Sparse Byte} {a : Nat} (h0 : Memory.read m a = Memory.read n a)
    (h1 : Memory.read m (a + 1) = Memory.read n (a + 1)) : readHalf m a = readHalf n a := by
  rw [readHalf, readHalf, h0, h1]

theorem readHalf_storeCode : ∀ (code : List Half) (m : Sparse Byte) (a : Nat) {k : Nat},
    k < code.length → readHalf (storeCode m a code) (a + 2 * k) = code[k]?
  | v :: code, m, a, 0, _ => by
    rw [storeCode, readHalf_congr (n := writeHalf m a v) (read_storeCode_other code _ (by omega))
      (read_storeCode_other code _ (by omega))]
    exact readHalf_writeHalf m a v
  | v :: code, m, a, k + 1, h => by
    have hk : k < code.length := by simpa using h
    have := readHalf_storeCode code (writeHalf m a v) (a + 2) hk
    rw [List.getElem?_cons_succ, ← this, storeCode]
    congr 1
    omega

/-! ### The checksum (70 R553; 92 D9) -/

theorem foldl_add_toNat : ∀ (code : List Half) (v : Half),
    (code.foldl (· + ·) v).toNat = (v.toNat + (code.map BitVec.toNat).sum) % 65536
  | [], v => by
    have := v.isLt
    simp; omega
  | h :: code, v => by
    rw [List.foldl_cons, foldl_add_toNat code, BitVec.toNat_add, List.map_cons, List.sum_cons]
    omega

theorem bootChecksum_default {c : Config} (a : BitVec 16) (code : List Half)
    (h : c.bootChecksum = none) : (bootChecksum c a code).toNat =
      (a.toNat + code.length + (code.map BitVec.toNat).sum) % 65536 := by
  rw [bootChecksum, h, Option.getD_none, foldl_add_toNat, BitVec.toNat_add, BitVec.toNat_ofNat]
  omega

theorem bootChecksum_given {c : Config} (a : BitVec 16) (code : List Half) {x : Half}
    (h : c.bootChecksum = some x) : bootChecksum c a code = x := by
  rw [bootChecksum, h]
  rfl

/-! ### The state at the first instruction (10 R86) -/

section
variable (c : Config) (a : BitVec 16) (code : List Half)

theorem bootState_r53 : (bootState c a code).regs[53] = (a.extractLsb' 12 4).zeroExtend 16 :=
  Vector.getElem_set_self ..

theorem bootState_r40 : (bootState c a code).regs[40] = bootChecksum c a code :=
  (regs_set_other (r := 40) (q := 53) _ _ (by decide)).trans (Vector.getElem_set_self ..)

theorem bootState_other {r : Reg} (h40 : r ≠ 40) (h53 : r ≠ 53) :
    (bootState c a code).regs[r] = (State.initial c).regs[r] :=
  (regs_set_other _ _ h53).trans (regs_set_other _ _ h40)

theorem bootState_r53_toNat : (bootState c a code).regs[53].toNat = a.toNat / 4096 := by
  rw [bootState_r53, BitVec.toNat_setWidth, BitVec.extractLsb'_toNat]
  have := a.isLt
  simp only [Nat.shiftRight_eq_div_pow]
  omega

theorem bootState_pc : (bootState c a code).pc.toNat = a.toNat := by
  have := a.isLt
  show (a.zeroExtend 17).toNat = _
  rw [BitVec.toNat_setWidth]
  omega

/-- The registers whose reserved bits the invariant looks at are 0 at reset (10 R86). -/
theorem initial_reserved : ∀ r ∈ [(48 : Reg), 49, 50, 51, 52, 58, 59], (State.initial c).regs[r] = 0 := by
  intro r hr
  fin_cases hr <;> rfl

theorem bootState_reserved (h : bootValue code &&& 0xFF00 = 0) (hc : bootValue code &&& 0x000C = 0) :
    ReservedZero (bootState c a code) := by
  have hzero : ∀ r ∈ [(48 : Reg), 49, 50, 51, 52, 58, 59], (bootState c a code).regs[r] = 0 := by
    intro r hr
    refine (bootState_other c a code ?_ ?_).trans (initial_reserved c r hr) <;>
      (rintro rfl; exact absurd hr (by decide))
  have h53 : ∀ x : BitVec 4, (x.zeroExtend 16 : Half) &&& 0xFFC0 = 0 := by decide
  have hmode : bootValue code &&& 0xF00C = 0 :=
    calc bootValue code &&& 0xF00C
        = (bootValue code &&& 0xFF00) &&& 0xF000 ||| bootValue code &&& 0x000C := by
          rw [BitVec.and_assoc, ← BitVec.and_or_distrib_left]; rfl
      _ = 0 := by rw [h, hc]; rfl
  have masked {r : Reg} (m : Half) (hr : r ∈ [(48 : Reg), 49, 50, 51, 52, 58, 59]) :
      (bootState c a code).regs[r] &&& m = 0 := by rw [hzero r hr]; exact BitVec.zero_and
  refine ⟨masked (r := 48) _ (by decide), masked (r := 49) _ (by decide), masked (r := 50) _ (by decide),
    masked (r := 51) _ (by decide), masked (r := 52) _ (by decide), ?_, masked (r := 58) _ (by decide),
    masked (r := 59) _ (by decide), hmode⟩
  rw [bootState_r53]
  exact h53 _

/-- The invariants hold in the state Boot gives (70 R558). -/
theorem bootState_invariants (h : bootValue code &&& 0xFF00 = 0) (hc : bootValue code &&& 0x000C = 0) :
    MemoryForm (bootState c a code) ∧ QueueBounds (bootState c a code) ∧
      PendingForm (bootState c a code) ∧ ReservedZero (bootState c a code) ∧
      CountersInRange (bootState c a code) :=
  ⟨⟨storeCode_wf code [] _ .nil, .nil, .nil, .nil, .nil, .nil, .nil, .nil⟩,
    ⟨Nat.zero_le _, Nat.zero_le _, Nat.zero_le _, Nat.zero_le _, Nat.zero_le _⟩,
    ⟨nofun, nofun, nofun⟩, bootState_reserved c a code h hc,
    ⟨Nat.zero_le _, Nat.zero_le _, Nat.zero_le _, Nat.zero_le _⟩⟩

end

/-- Settles O55: the list of checks is the list of limits, and each field of the state Boot gives is
read off its definition, the image by induction on its halfwords. -/
theorem bootGivesState : Obligations.BootState := by
  unfold Obligations.BootState
  intro c a code
  refine ⟨(bootChecks_iff c a code).symm.trans (boot_fault_iff c a code).symm, fun t ht => ?_⟩
  obtain ⟨hchecks, rfl⟩ := boot_next c a code ht
  rw [← Bool.not_eq_true, bootChecks_iff] at hchecks
  simp only [not_or, ne_eq, not_not] at hchecks
  obtain ⟨-, -, -, -, -, -, -, hhigh, hlow, -⟩ := hchecks
  refine ⟨bootState_pc c a code, bootState_r53_toNat c a code, rfl,
    fun k hk => readHalf_storeCode code [] _ hk, fun b hb => read_storeCode_other code [] hb,
    fun h => ?_, fun x h => ?_, rfl, rfl, bootState_invariants c a code hhigh hlow⟩
  · rw [bootState_r40, bootChecksum_default a code h]
  · rw [bootState_r40, bootChecksum_given a code h]

end Sys2Proof.Machine
end

section
/-!
PROOFS. What a completed instruction does to a hardware register outside R48 to R51 that it does not name
(70 R562): its value stays, nothing new is owed to it, and its write-delay record grows one instruction older.
-/
namespace Sys2Proof.Machine

/-! ### The record of a key -/

theorem recOf_addRec_self (s : State) (k : RecKey) (old : Half) (kind : RecKind) :
    recOf (addRec s k old kind) k = some { key := k, old := old, e := 0, x := 0, kind := kind } := by
  simp [recOf, addRec]

theorem recOf_addRec_other (s : State) {k l : RecKey} (old : Half) (kind : RecKind) (h : k ≠ l) :
    recOf (addRec s k old kind) l = recOf s l := by
  unfold recOf addRec
  rw [List.find?_cons_of_neg (by simpa using h), List.find?_filter]
  congr 1
  funext c
  by_cases hc : c.key = l
  · simp [hc, h.symm]
  · simp [hc]

theorem recOf_congr {s t : State} (h : t.recs = s.recs) (k : RecKey) : recOf t k = recOf s k := by
  rw [recOf, recOf, h]

/-- A write of a register makes no record of another register. -/
theorem recOf_writeReg_other (w s : State) {r q : Reg} (v : Half) (h : q ≠ r) :
    recOf (writeReg w s r v) (.reg q) = recOf s (.reg q) := by
  have hset (p : Reg) (x : Half) (hp : r.val = p.val) : recOf (setRec s p x) (.reg q) = recOf s (.reg q) :=
    recOf_addRec_other _ _ _ (by simpa [Fin.ext hp] using (Fin.ext hp ▸ h).symm)
  have hrec {u : State} {k : RecKey} (x : Half) (hu : u.recs = s.recs) (hk : k ≠ .reg q) :
      recOf (addRec u k x .plain) (.reg q) = recOf s (.reg q) :=
    (recOf_addRec_other u x .plain hk).trans (recOf_congr hu _)
  unfold writeReg
  split
  case h_1 => split <;> rfl
  case h_2 =>
    split
    · exact hrec _ rfl nofun
    · rfl
  case h_5 => exact hrec _ rfl nofun
  case h_6 =>
    unfold writeFifo
    dsimp only
    split
    · exact hrec _ rfl nofun
    · rfl
  case h_19 =>
    unfold writeFmData
    split
    · rfl
    · exact hrec _ rfl nofun
  case h_20 =>
    unfold writeEvent
    dsimp only
    split
    · rfl
    · exact hrec _ rfl nofun
  case h_23 e =>
    unfold writeCss
    dsimp only
    split <;> exact hset _ _ e
  case h_7 e | h_8 e | h_9 e | h_10 e | h_11 e | h_12 e | h_13 e | h_14 e | h_21 e | h_22 e | h_25 e | h_26 e =>
    exact hset _ _ e
  all_goals rfl

theorem ageRec_key {hw : Bool} {c d : Rec} (h : ageRec hw c = some d) : d.key = c.key := by
  simp only [ageRec, Option.ite_none_left_eq_some, Option.some.injEq] at h
  obtain ⟨-, rfl⟩ := h
  cases hw <;> rfl

/-- The first record of a key is still the first one when all have grown older. -/
theorem find_aged {hw : Bool} {k : RecKey} : ∀ {l : List Rec} {c d : Rec},
    l.find? (fun r => r.key = k) = some c → ageRec hw c = some d →
      (l.filterMap (ageRec hw)).find? (fun r => r.key = k) = some d
  | x :: l, c, d, hc, hd => by
    by_cases hx : x.key = k
    · rw [List.find?_cons_of_pos (by simpa using hx)] at hc
      cases hc
      rw [List.filterMap_cons_some hd, List.find?_cons_of_pos (by simpa [ageRec_key hd] using hx)]
    · rw [List.find?_cons_of_neg (by simpa using hx)] at hc
      have ih := find_aged hc hd
      cases ha : ageRec hw x with
      | none => rwa [List.filterMap_cons_none ha]
      | some y =>
        rwa [List.filterMap_cons_some ha, List.find?_cons_of_neg (by simpa [ageRec_key ha] using hx)]

/-! ### A register that nothing is owed to -/

/-- No agent owes the register a value, and it is in no slot after a POPC (70 R563(b)). -/
structure Unowed (s : State) (r : Reg) : Prop where
  shadow : s.popcShadow ≠ some r
  jobs : ∀ j ∈ s.fmJobs, lmfmInterlocked j r = false ∧ lmfmOrdered j r = false
  loads : ∀ o ∈ s.lsu, lsuPending o r = false
  pops : ∀ o ∈ s.cssq, cssPending o r = false

theorem pending_false {s : State} {r : Reg} : pending s r = false ↔
    (∀ j ∈ s.fmJobs, lmfmInterlocked j r = false) ∧ (∀ o ∈ s.lsu, lsuPending o r = false) ∧
      ∀ o ∈ s.cssq, cssPending o r = false := by
  simp only [pending, Bool.or_eq_false_iff, List.any_eq_false, Bool.not_eq_true, and_assoc]

theorem orderCheck_ok {s : State} {r : Reg} :
    orderCheck s r = .ok () ↔ ∀ j ∈ s.fmJobs, lmfmOrdered j r = false := by
  simp only [orderCheck]
  cases hf : s.fmJobs.find? fun j => lmfmOrdered j r with
  | none => simpa using hf
  | some j =>
    have hj := List.find?_some hf
    have hmem := List.mem_of_find?_eq_some hf
    refine iff_of_false (fun h => ?_) fun h => by simp_all
    cases ha : j.acc with
    | none => simp [ha] at h
    | some a => simp only [ha] at h; split at h <;> cases h

theorem accessOne_ok {s : State} {r : Reg} : accessOne s r = .ok () ↔ Unowed s r := by
  unfold accessOne
  rw [seq_ok, seq_ok, raiseIf_ok, stallIf_ok, pending_false, orderCheck_ok, beq_eq_false_iff_ne]
  constructor
  · rintro ⟨hshadow, ⟨hjobs, hloads, hpops⟩, hordered⟩
    exact ⟨hshadow, fun j hj => ⟨hjobs j hj, hordered j hj⟩, hloads, hpops⟩
  · rintro ⟨hshadow, hjobs, hloads, hpops⟩
    exact ⟨hshadow, ⟨fun j hj => (hjobs j hj).1, hloads, hpops⟩, fun j hj => (hjobs j hj).2⟩

/-! ### A register that a completed instruction does not name -/

/-- The load of a hardware register, told from the instruction. -/
def isHardwareLoad : Instr → Bool
  | .ld rd _ _ _ => decide (32 ≤ rd.val)
  | .ldd rd _ _ _ => decide (32 ≤ rd.val)
  | _ => false

theorem isHardwareLoad_iff {i : Instr} : isHardwareLoad i = true ↔ HardwareLoad i := by
  constructor
  · intro h
    cases i with
    | ld rd x swap idx => exact ⟨rd, x, swap, idx, of_decide_eq_true h, .inl rfl⟩
    | ldd rd x swap idx => exact ⟨rd, x, swap, idx, of_decide_eq_true h, .inr rfl⟩
    | _ => cases h
  · rintro ⟨rd, x, swap, idx, h, rfl | rfl⟩ <;> exact decide_eq_true h

/-- Every pending "+" increment is of a local address register (44 R327). -/
def PlusLocal (s : State) : Prop := ∀ p ∈ s.plus, 48 ≤ p.r.val ∧ p.r.val ≤ 51

theorem PendingForm.plusLocal {s : State} (h : PendingForm s) : PlusLocal s := fun p hp =>
  ⟨(h.1 p hp).1, (h.1 p hp).2.1⟩

/-- From `s` to `t` one instruction completed: what is new on the agents' lists is not for `r`, and a new
increment is of a local address register. -/
structure OwedAsBefore (s t : State) (r : Reg) : Prop where
  shadow : t.popcShadow ≠ some r
  jobs : ∀ j ∈ t.fmJobs.map LmfmJob.timeless, j ∈ s.fmJobs.map LmfmJob.timeless ∨
    lmfmInterlocked j r = false ∧ lmfmOrdered j r = false
  loads : ∀ o ∈ t.lsu, o ∈ s.lsu ∨ lsuPending o r = false
  pops : ∀ o ∈ t.cssq, o ∈ s.cssq ∨ cssPending o r = false
  plus : ∀ p ∈ t.plus, p ∈ agedPlus s.plus ∨ 48 ≤ p.r.val ∧ p.r.val ≤ 51

namespace OwedAsBefore
variable {s t : State} {r : Reg}

theorem plusLocal (h : OwedAsBefore s t r) (hlocal : PlusLocal s) : PlusLocal t := by
  intro p hp
  rcases h.plus p hp with hold | hnew
  · obtain ⟨q, hq, rfl⟩ := List.mem_map.1 hold
    exact hlocal q (List.mem_filter.1 hq).1
  · exact hnew

theorem unowed (h : OwedAsBefore s t r) (hs : Unowed s r) : Unowed t r where
  shadow := h.shadow
  jobs j hj := by
    have htimeless : lmfmInterlocked j.timeless r = false ∧ lmfmOrdered j.timeless r = false := by
      rcases h.jobs _ (List.mem_map_of_mem hj) with hold | hnew
      · obtain ⟨i, hi, e⟩ := List.mem_map.1 hold
        exact e ▸ hs.jobs i hi
      · exact hnew
    exact htimeless
  loads o ho := (h.loads o ho).elim (hs.loads o) id
  pops o ho := (h.pops o ho).elim (hs.pops o) id

/-- An instruction that hands nothing to an agent and schedules no increment. -/
theorem of_same (hshadow : t.popcShadow = none) (hjobs : SameJobs s t) (hlsu : t.lsu = s.lsu)
    (hcssq : t.cssq = s.cssq) (hplus : t.plus = agedPlus s.plus) : OwedAsBefore s t r where
  shadow := by simp [hshadow]
  jobs j hj := .inl (hjobs ▸ hj)
  loads o ho := .inl (hlsu ▸ ho)
  pops o ho := .inl (hcssq ▸ ho)
  plus p hp := .inl (hplus ▸ hp)

end OwedAsBefore

/-- From `s` to `t` one instruction completed that does not name `r`: `r` changes only with the increments,
its record grows one instruction older, and nothing new is owed to it. -/
structure RegPassed (s t : State) (r : Reg) (hw : Bool) : Prop where
  cfg : t.cfg = s.cfg
  reg : t.regs[r] = (ripen s s.plus).regs[r]
  record : recOf t (.reg r) = (s.recs.filterMap (ageRec hw)).find? fun c => c.key = .reg r
  owed : OwedAsBefore s t r

namespace RegPassed
variable {s t : State} {r : Reg} {hw : Bool} (h : RegPassed s t r hw)
include h

theorem value (hlocal : PlusLocal s) (hr : r.val < 48 ∨ 51 < r.val) : t.regs[r] = s.regs[r] := by
  refine h.reg.trans (ripen_other _ _ fun p hp e => ?_)
  have := hlocal p hp
  rw [e] at this
  omega

theorem aged {c d : Rec} (hc : recOf s (.reg r) = some c) (hd : ageRec hw c = some d) :
    recOf t (.reg r) = some d := h.record.trans (find_aged hc hd)

end RegPassed

/-! ### The families of instructions -/

section
variable {s : State} {r : Reg}

theorem owedAsBefore_alu (s : State) (o : AluOp) (r : Reg) : OwedAsBefore s (aluNext s o) r := by
  refine .of_same ?_ (sameJobs_age (acc := aluRegs s o) ?_) ?_ ?_ (aluNext_plus s o)
  all_goals
    rw [aluNext_eq, aluWrite]
    cases o.rd with
    | none => simp [aluMid]
    | some q => cases o.um <;> simp [aluMid]

theorem aluNext_cfg (s : State) (o : AluOp) : (aluNext s o).cfg = s.cfg := by
  rw [aluNext_eq, aluWrite]
  cases o.rd with
  | none => simp
  | some q => cases o.um <;> simp

/-- The records after an ALU instruction are those after its destination write. -/
theorem recOf_aluNext_dest {o : AluOp} {q : Reg} (hq : o.rd = some q) (k : RecKey) :
    recOf (aluNext s o) k = recOf (writeReg s (aluMid s o) q o.res) k := by
  rw [aluNext_eq, recOf_congr (advance_recs ..), aluWrite, hq]
  cases o.um
  · rfl
  · exact recOf_congr (postWrite_recs ..) _

theorem recOf_aluNext_other {o : AluOp} (hrd : ∀ q, o.rd = some q → r ≠ q) :
    recOf (aluNext s o) (.reg r) = recOf (aluMid s o) (.reg r) := by
  cases h : o.rd with
  | none => rw [aluNext_eq, recOf_congr (advance_recs ..), aluWrite, h]
  | some q => rw [recOf_aluNext_dest h, recOf_writeReg_other _ _ _ (hrd q h)]

theorem regPassed_alu {o : AluOp} (hrd : ∀ q, o.rd = some q → r ≠ q) (h61 : r ≠ 61) :
    RegPassed s (aluNext s o) r false where
  cfg := aluNext_cfg s o
  reg := aluNext_other hrd h61
  record := by rw [recOf_aluNext_other hrd]; simp [recOf, aluMid]
  owed := owedAsBefore_alu s o r

theorem branchNext_unlinked (s : State) (x : Target) (e : Fin 16) (sense c : Bool) (cso : Cso) :
    (branchNext s false x e sense c cso).regs = (ripen s s.plus).regs := by
  rw [branchNext_eq, advance_regs, branchMid_rest]
  simp

/-- The record that a Branch instruction makes is of its link register (42 R265). -/
theorem recOf_branchMid (s u : State) {nul linked : Bool} (h : linked = true → r ≠ 59) :
    recOf (branchMid s u nul linked) (.reg r) = recOf u (.reg r) := by
  have hnul : ∀ v : State, (if nul then nullifyEffect s v else v).recs = v.recs := by
    intro v; cases nul <;> rfl
  unfold branchMid
  cases linked
  · exact recOf_congr (hnul u) _
  · refine (recOf_addRec_other _ _ _ ?_).trans (recOf_congr (hnul u) _)
    simpa using (h rfl).symm

theorem regPassed_branch {link : Bool} {x : Target} {e : Fin 16} {sense c : Bool} {cso : Cso}
    (hlink : link = true → r ≠ 59) : RegPassed s (branchNext s link x e sense c cso) r false := by
  have hreg : (branchNext s link x e sense c cso).regs[r] = (ripen s s.plus).regs[r] := by
    cases link
    · rw [branchNext_unlinked]
    · exact branchNext_other true x e sense c cso (hlink rfl)
  refine ⟨?_, hreg, ?_, .of_same ?_ (branchNext_done s link x e sense c cso).jobs ?_ ?_ (branchNext_plus ..)⟩
  case refine_2 =>
    rw [branchNext_eq, recOf_congr (advance_recs ..),
      recOf_branchMid _ _ fun h => hlink (Bool.and_eq_true_iff.1 h).2]
    simp [recOf]
  all_goals
    rw [branchNext_eq, branchMid_rest]
    simp

theorem regPassed_fmStore {regs : List Reg} {src : Reg} {a : BitVec 20} :
    RegPassed s (fmStoreNext s regs src a) r false := by
  refine ⟨?_, ?_, ?_, .of_same ?_ (sameJobs_age (acc := accessed s (regs ++ [src]) [] ++ [42]) ?_) ?_ ?_ ?_⟩ <;>
    simp [fmStoreNext, recOf, agedPlus]

theorem regPassed_css {o : CssIssue} (hrd : o.kind = .popc → r ≠ o.rd) :
    RegPassed s (cssNext s o) r false where
  cfg := by simp [cssNext]
  reg := by simp [cssNext]
  record := by simp [cssNext, recOf]
  owed := {
    shadow := by
      rw [cssNext_popcShadow]
      split
      · next hk => simpa using (hrd hk).symm
      · nofun
    jobs j hj := by
      have hsame : SameJobs s (cssNext s o) := sameJobs_age
        (acc := 60 :: accessed s o.srcs (if o.kind = .popc then [o.rd] else [])) (by simp [cssNext])
      exact .inl (hsame ▸ hj)
    loads q hq := .inl (by simpa [cssNext] using hq)
    pops q hq := by
      have hq : q ∈ s.cssq ++ [cssOpOf s o] := by simpa [cssNext] using hq
      refine (List.mem_append.1 hq).imp_right fun hnew => ?_
      obtain rfl := List.mem_singleton.1 hnew
      change (o.kind == .popc && r == o.rd) = false
      by_cases hk : o.kind = .popc
      · simp [hk, hrd hk]
      · simp [hk]
    plus p hp := .inl (by simpa [cssNext, agedPlus] using hp) }

theorem regPassed_dma {o : DmaOp} : RegPassed s (dmaNext s o) r false where
  cfg := by simp [dmaNext]
  reg := by simp [dmaNext]
  record := by simp [dmaNext, recOf]
  owed := {
    shadow := by simp [dmaNext]
    jobs j hj := by
      have hsame : SameJobs s (dmaNext s o) := sameJobs_age (acc := dmaRegs s o) (by simp [dmaNext])
      exact .inl (hsame ▸ hj)
    loads q hq := .inl (by simpa [dmaNext] using hq)
    pops q hq := .inl (by simpa [dmaNext] using hq)
    plus p hp := by
      rw [dmaNext_plus, List.mem_append] at hp
      refine hp.imp_right fun hnew => ?_
      unfold plusOfOp at hnew
      split at hnew
      · obtain ⟨q, hq, rfl⟩ := List.mem_map.1 hnew
        exact rlaReg_val (Option.mem_toList.1 hq)
      · cases hnew }

/-- A new burst owes nothing to a register that it does not load (45 R364, R365). -/
theorem newJob_unowed {o : LmfmOp} (hn : o.n ≠ 0) (hd : r ∉ lmfmDests o) (a : Nat) (acc : Option Nat) :
    let j : LmfmJob := { addr := a, n := o.n, rd := o.rd, lnk := o.lnk, k := 0, acc := acc }
    lmfmInterlocked j r = false ∧ lmfmOrdered j r = false := by
  rw [lmfmDests, List.mem_append, not_or] at hd
  obtain ⟨hrange, hlink⟩ := hd
  have hout : ¬ (o.rd.val ≤ r.val ∧ r.val < o.rd.val + o.n) := by
    rintro ⟨hlow, hhigh⟩
    refine hrange (List.mem_map.2 ⟨r.val - o.rd.val, List.mem_range.2 (by omega), Fin.ext ?_⟩)
    have := r.isLt
    simp only [Fin.ofNat]
    omega
  have h58 : o.lnk = true → r ≠ 58 := fun hl e => hlink (by simp [hl, hn, e])
  have hdecide : (decide (o.rd.val ≤ r.val) && decide (r.val < o.rd.val + o.n)) = false := by
    rw [← Bool.not_eq_true, Bool.and_eq_true, decide_eq_true_eq, decide_eq_true_eq]
    exact hout
  constructor
  · simp only [lmfmInterlocked, Nat.add_zero, hdecide, Bool.false_and, Bool.false_or]
    cases hl : o.lnk
    · rfl
    · simp [h58 hl]
  · simp only [lmfmOrdered, Nat.add_zero, hdecide, Bool.false_and]

theorem lmfmNext_recs (s : State) (o : LmfmOp) :
    (lmfmNext s o).recs = s.recs.filterMap (ageRec false) := by
  unfold lmfmNext
  cases o.lnk <;> by_cases hn : o.n = 0 <;> simp [hn]

theorem lmfmNext_popcShadow (s : State) (o : LmfmOp) : (lmfmNext s o).popcShadow = none := by
  unfold lmfmNext
  cases o.lnk <;> by_cases hn : o.n = 0 <;> simp [hn]

theorem regPassed_lmfm {o : LmfmOp} (hd : r ∉ lmfmDests o) : RegPassed s (lmfmNext s o) r false where
  cfg := (congrArg State.cfg (lmfmNext_issued s o).rest).trans rfl
  reg := by rw [lmfmNext_regs]
  record := by rw [recOf, lmfmNext_recs]
  owed := {
    shadow := by rw [lmfmNext_popcShadow]; nofun
    jobs j hj := by
      rw [(lmfmNext_issued s o).jobs, List.mem_append] at hj
      refine hj.imp_right fun hnew => ?_
      split at hnew
      · cases hnew
      · next hn =>
        obtain rfl := List.mem_singleton.1 hnew
        exact newJob_unowed hn hd _ _
    loads q hq := .inl (((congrArg State.lsu (lmfmNext_issued s o).rest).trans rfl : _ = s.lsu) ▸ hq)
    pops q hq := .inl (((congrArg State.cssq (lmfmNext_issued s o).rest).trans rfl : _ = s.cssq) ▸ hq)
    plus p hp := .inl (lmfmNext_plus s o ▸ hp) }

theorem regPassed_lsu {d : Done} {srcs : List Reg} {o : LsuOp} (ho : lsuPending o r = false) :
    RegPassed s (lsuNext s d srcs o) r d.hwLoad where
  cfg := by simp [lsuNext]
  reg := by simp [lsuNext]
  record := by simp [lsuNext, recOf]
  owed := {
    shadow := by simp [lsuNext]
    jobs j hj := .inl ((lsuNext_issued s d srcs o).jobs ▸ hj)
    loads q hq := by
      have hq : q ∈ s.lsu ++ [o] := by simpa [lsuNext] using hq
      refine (List.mem_append.1 hq).imp_right fun hnew => ?_
      rwa [List.mem_singleton.1 hnew]
    pops q hq := .inl (by simpa [lsuNext] using hq)
    plus p hp := .inl (by simpa [lsuNext, agedPlus] using hp) }

/-- An instruction that runs to its end is in the one state its checks can end in. -/
theorem Completes.eq_of_endsIn {i : Instr} {t u : State} {c : Check State} (h : Completes i s t)
    (he : exec i s = complete s c) (hc : EndsIn c u) : t = u := by
  obtain ⟨hexec, hwaits, hsticks⟩ := h
  rcases complete_next.1 (he ▸ hexec) with h | h | h
  · exact hc t h
  · exact absurd h.2 hwaits
  · exact absurd h.2 hsticks

theorem Completes.regPassed {i : Instr} {t u : State} {c : Check State} {hw : Bool} (h : Completes i s t)
    (he : exec i s = complete s c) (hc : EndsIn c u) (hu : RegPassed s u r hw) : RegPassed s t r hw := by
  rwa [h.eq_of_endsIn he hc]

theorem regPassed_load {rd : Reg} {x : Rla} {ds : List Reg} {o : LsuOp} (ho : lsuPending o r = false) :
    RegPassed s (lsuNext s (loadDone s x rd ds) [] o) r (decide (32 ≤ rd.val)) := regPassed_lsu ho

/-- What stands between two uses of a register: an instruction that completes and does not name it. -/
theorem completes_regPassed {i : Instr} {t : State} (h : Completes i s t) (hd : r ∉ dests i) (h61 : r ≠ 61) :
    RegPassed s t r (isHardwareLoad i) := by
  cases i with
  | bi | br | bf => exact h.regPassed rfl (.seq .pure) (regPassed_branch nofun)
  | bil | brl | bfl => exact h.regPassed rfl (.seq .pure) (regPassed_branch fun _ => by simpa [dests] using hd)
  | popc => exact h.regPassed rfl (.seq .pure) (regPassed_css fun _ => by simpa [dests] using hd)
  | popf | pushc | pushf => exact h.regPassed rfl (.seq .pure) (regPassed_css nofun)
  | dma1r | dma1w | dma2r | dma2w | dma1rPlus | dma1wPlus | dma2rPlus | dma2wPlus =>
    exact h.regPassed rfl (.seq .pure) regPassed_dma
  | shfm | srh => exact h.regPassed rfl (.seq .pure) regPassed_fmStore
  | lmfm => exact h.regPassed rfl (.seq .pure) (regPassed_lmfm hd)
  | ld => exact h.regPassed rfl (.seq (.seq .pure)) (regPassed_load (by simpa [dests, lsuPending] using hd))
  | ldd rd x swap idx =>
    refine h.regPassed rfl (.seq (.seq .pure)) (regPassed_load ?_)
    have hd : r ≠ rd ∧ r ≠ nextReg rd := by simpa [dests] using hd
    unfold pairUp
    split <;> simp [lsuPending, hd]
  | st =>
    exact h.regPassed rfl (.seq (.seq (.seq (.seq (.seq (.seq (.seq .pure))))))) (regPassed_lsu rfl)
  | std => exact h.regPassed rfl (.seq (.seq (.seq (.seq (.seq (.seq .pure)))))) (regPassed_lsu rfl)
  | cmp | cmpp | cmpi | cmppi => exact h.regPassed rfl (.seq .pure) (regPassed_alu nofun h61)
  | _ =>
    refine h.regPassed rfl (.seq .pure) (regPassed_alu (fun q hq => ?_) h61)
    have hd : r ∉ [q] := (Option.some.inj hq) ▸ hd
    simpa using hd

end

/-! ### An instruction that writes a register with a window (70 R560, R561) -/

/-- Every ALU word is run by `runAlu` on its operation, whose destination is the instruction's. -/
theorem exec_alu {i : Instr} (h : (encode i).getLsbD 31 = true) (s : State) :
    ∃ o, exec i s = runAlu s o ∧ dests i = o.rd.toList := by
  have hcode := (encode_bit31 i).1 h
  have hlow {op : Nat} (he : fld (encodeNat i) 31 26 = op) (hop : op < 32) :
      ∃ o, exec i s = runAlu s o ∧ dests i = o.rd.toList := absurd hcode (by omega)
  cases i with
  | bi => exact hlow (fields_encBranch (by decide) _ _ _ _ (BitVec.isLt _)).1 (by decide)
  | bil => exact hlow (fields_encBranch (by decide) _ _ _ _ (BitVec.isLt _)).1 (by decide)
  | br | brl | bf | bfl => exact hlow (fields_encBranch (by decide) _ _ _ _ (by decide)).1 (by decide)
  | dma1r | dma1w | dma2r | dma2w => exact hlow (code_encDma (by decide) (BitVec.isLt _) ..) (by omega)
  | dma1rPlus | dma1wPlus | dma2rPlus | dma2wPlus =>
    exact hlow (code_encDma (by decide) (count_plus_lt _) ..) (by omega)
  | popc rd rsb => exact hlow (op := 9) (by simp only [fld, encodeNat]; omega) (by decide)
  | popf rd rsb => exact hlow (op := 9) (by simp only [fld, encodeNat]; omega) (by decide)
  | pushc rsa rsb => exact hlow (op := 8) (by simp only [fld, encodeNat]; omega) (by decide)
  | pushf rsa rsb => exact hlow (op := 8) (by simp only [fld, encodeNat]; omega) (by decide)
  | lmfm rd lnk z rsa hw rsb => exact hlow (fields_lmfm rd lnk z rsa hw rsb).1 (by decide)
  | srh adr reg rsa lsbs rsb => exact hlow (fields_srh adr reg rsa lsbs rsb).1 (by decide)
  | shfm rsa rsb => exact hlow (op := 23) (by simp only [fld, encodeNat]; omega) (by decide)
  | ld | ldd => exact hlow (fields_load (by decide) ..).1 (by decide)
  | st swap rla rsa idx =>
    exact hlow (fields_store (w := encodeNat (.st swap rla rsa idx)) (by decide : 0b010010 < 64)
      (by decide : 0 < 32) swap rla rsa idx rfl).1 (by decide)
  | std swap rla rsa idx rsb =>
    exact hlow (fields_store (w := encodeNat (.std swap rla rsa idx rsb))
      (by decide : 0b010011 < 64) rsb.isLt swap rla rsa idx rfl).1 (by decide)
  | _ => exact ⟨_, rfl, rfl⟩

/-- The registers whose write-delay windows the statement is about. -/
def HasWindow (r : Reg) : Prop := (r = 58 ∨ r = 59) ∨ r = 60 ∨ r = 62 ∨ r = 63

theorem HasWindow.above {r : Reg} (h : HasWindow r) : 51 < r.val ∧ r ≠ 61 := by
  rcases h with (rfl | rfl) | rfl | rfl | rfl <;> decide

/-- The record of an ordinary write of `r`, in whose window `e` instructions and `x` loads of a hardware
register have been executed (70 R562). -/
def plainRec (r : Reg) (old : Half) (e x : Nat) : Rec :=
  { key := .reg r, old := old, e := e, x := x, kind := .plain }

/-- A write of the register starts its window (70 R560, R561). -/
theorem recOf_writeReg_self (w s : State) {r : Reg} (v : Half) (h : HasWindow r) :
    ∃ old, recOf (writeReg w s r v) (.reg r) = some (plainRec r old 0 0) := by
  rcases h with (rfl | rfl) | rfl | rfl | rfl
  case inr.inl =>
    change ∃ old, recOf (writeCss s v) (.reg 60) = _
    unfold writeCss
    dsimp only
    split <;> exact ⟨_, recOf_addRec_self ..⟩
  all_goals exact ⟨_, recOf_addRec_self ..⟩

/-- In `t` the register `r` is owed nothing, and its window stands at `e` instructions and `x` loads of a
hardware register. -/
structure InWindow (t : State) (r : Reg) (e x : Nat) : Prop where
  mode : t.cfg.hazardMode = .fault
  record : ∃ old, recOf t (.reg r) = some (plainRec r old e x)
  unowed : Unowed t r
  plus : PlusLocal t

theorem ageRec_plain (r : Reg) (old : Half) {e : Nat} (x : Nat) (he : e < 2) :
    ageRec false (plainRec r old e x) = some (plainRec r old (e + 1) x) :=
  if_neg (by change ¬ 3 ≤ e + 1; omega)

theorem ageRec_plain_load (r : Reg) (old : Half) {e : Nat} (x : Nat) (he : e < 3) :
    ageRec true (plainRec r old e x) = some (plainRec r old e (x + 1)) :=
  if_neg (by change ¬ 3 ≤ e; omega)

/-- An ALU instruction that runs to its end has passed its checks. -/
theorem Completes.runAlu {i : Instr} {s t : State} {o : AluOp} (h : Completes i s t)
    (he : exec i s = runAlu s o) : aluCheck s o = .ok () ∧ t = aluNext s o := by
  obtain ⟨hexec, hwaits, hsticks⟩ := h
  exact (runAlu_next (he ▸ hexec)).resolve_right (not_or.2 ⟨hwaits, hsticks⟩)

theorem limd_stores {s t : State} {r : Reg} {um : Bool} {v : Half} (hp : PendingForm s)
    (h : Completes (.limd r um v) s t) : t.regs[r] = storedAs s r v := by
  obtain ⟨hcheck, rfl⟩ := h.runAlu rfl
  exact (aluNext_done hp rfl (destCheck_plus (aluCheck_dest hcheck rfl)).2).1.dest

theorem accessOne_of_destCheck {s : State} {r : Reg} (h : destCheck s r = .ok ()) :
    accessOne s r = .ok () := by
  obtain ⟨-, h⟩ := seq_ok.1 h
  obtain ⟨h, -⟩ := seq_ok.1 h
  exact (seq_ok.1 h).1

section
variable {s t : State} {r : Reg} (hr : HasWindow r)
include hr

/-- After an ALU instruction that writes `r`, its window has just begun. -/
theorem completes_inWindow {i : Instr} (hp : PendingForm s) (hm : s.cfg.hazardMode = .fault)
    (halu : (encode i).getLsbD 31 = true) (hd : r ∈ dests i) (h : Completes i s t) : InWindow t r 0 0 := by
  obtain ⟨o, he, hdests⟩ := exec_alu halu s
  have hrd : o.rd = some r := Option.mem_toList.1 (hdests ▸ hd)
  obtain ⟨hcheck, rfl⟩ := h.runAlu he
  have howed := owedAsBefore_alu s o r
  exact {
    mode := by rw [aluNext_cfg, hm]
    record := by
      rw [recOf_aluNext_dest hrd]
      exact recOf_writeReg_self s _ _ hr
    unowed := howed.unowed (accessOne_ok.1 (accessOne_of_destCheck (aluCheck_dest hcheck hrd)))
    plus := howed.plusLocal hp.plusLocal }

variable {e x : Nat} {j : Instr} (hw : InWindow s r e x) (h : Completes j s t) (hd : r ∉ dests j)
include hw h hd

/-- An instruction that does not name the register keeps it. -/
theorem InWindow.value : t.regs[r] = s.regs[r] :=
  (completes_regPassed h hd hr.above.2).value hw.plus (.inr hr.above.1)

/-- The window after an instruction that does not name the register. -/
theorem InWindow.passed {e' x' : Nat}
    (hage : ∀ old, ageRec (isHardwareLoad j) (plainRec r old e x) = some (plainRec r old e' x')) :
    InWindow t r e' x' := by
  have hpassed := completes_regPassed h hd hr.above.2
  obtain ⟨old, hrec⟩ := hw.record
  exact {
    mode := hpassed.cfg ▸ hw.mode
    record := ⟨old, hpassed.aged hrec (hage old)⟩
    unowed := hpassed.owed.unowed hw.unowed
    plus := hpassed.owed.plusLocal hw.plus }

/-- An ordinary instruction goes one step on in the window. -/
theorem InWindow.next (hj : ¬ HardwareLoad j) (he : e < 2) : InWindow t r (e + 1) x := by
  refine hw.passed hr h hd fun old => ?_
  rw [← isHardwareLoad_iff, Bool.not_eq_true] at hj
  rw [hj, ageRec_plain r old x he]

/-- A load of a hardware register does not (70 R562). -/
theorem InWindow.load (hj : HardwareLoad j) (he : e < 3) : InWindow t r e (x + 1) := by
  refine hw.passed hr h hd fun old => ?_
  rw [isHardwareLoad_iff.2 hj, ageRec_plain_load r old x he]

end

/-! ### Reads in the window (70 R563(a), R565) -/

section
variable {t : State} {r : Reg} {e x : Nat} (hw : InWindow t r e x)
include hw

theorem InWindow.windowStop {old : Half} (d : Nat) : windowStop t (plainRec r old e x) d =
    .error (.fault (if d ≤ e + x then .loadHardwareRegisterHazard else .writeDelayHazard r.val e)) := by
  unfold Machine.windowStop plainRec
  rw [if_neg (by simp), hw.mode]
  split <;> rfl

/-- A read of R60, R62 or R63 is checked against the register's window alone. -/
theorem InWindow.readCheck_config (hr : r = 60 ∨ r = 62 ∨ r = 63) (u : Use) :
    readCheck u t r = useCheck t (.reg r) 2 := by
  have haccess : accessOne t r = .ok () := accessOne_ok.2 hw.unowed
  rcases hr with rfl | rfl | rfl <;>
    exact (seq_of_ok rfl).trans (seq_ok_left (raiseIf_false rfl) (seq_ok_left haccess rfl))

/-- A read of R58 or R59 is checked against the register's window alone. -/
theorem InWindow.readCheck_index (hr : r = 58 ∨ r = 59) (u : Use) :
    readCheck u t r = table3Use t u r := by
  have haccess : accessOne t r = .ok () := accessOne_ok.2 hw.unowed
  rcases hr with rfl | rfl <;>
    exact (seq_of_ok rfl).trans (seq_ok_left (raiseIf_false rfl) (seq_ok_left haccess rfl))

theorem InWindow.useCheck (d : Nat) : useCheck t (.reg r) d = if d ≤ e then .ok () else
    .error (.fault (if d ≤ e + x then .loadHardwareRegisterHazard else .writeDelayHazard r.val e)) := by
  obtain ⟨old, hrec⟩ := hw.record
  rw [Machine.useCheck, hrec]
  dsimp only
  rw [hw.windowStop]
  rfl

theorem InWindow.table3Use {u : Use} (he : exempt u .plain = false) :
    table3Use t u r = Machine.useCheck t (.reg r) 1 := by
  obtain ⟨old, hrec⟩ := hw.record
  rw [Machine.table3Use, Machine.useCheck, hrec]
  exact if_neg (by simp [plainRec, he])

/-- ALU and DMA instructions need not wait for R58 and R59 (70 R560). -/
theorem InWindow.reads_exempt (hr : r = 58 ∨ r = 59) {u : Use} (he : exempt u .plain = true) :
    Readable u t r ∧ readVal u t r = t.regs[r] := by
  obtain ⟨old, hrec⟩ := hw.record
  have hval : table3Val t u r = t.regs[r] := by
    rw [table3Val, hrec]
    exact if_pos he
  constructor
  · rw [Readable, hw.readCheck_index hr, Machine.table3Use, hrec]
    exact if_pos he
  · rcases hr with rfl | rfl <;> exact hval

/-- The others must wait for one other instruction (70 R560). -/
theorem InWindow.reads_index (hr : r = 58 ∨ r = 59) {u : Use} (he : exempt u .plain = false) :
    readCheck u t r = if 1 ≤ e then .ok () else
      .error (.fault (if 1 ≤ e + x then .loadHardwareRegisterHazard else .writeDelayHazard r.val e)) := by
  rw [hw.readCheck_index hr, hw.table3Use he, hw.useCheck]

theorem InWindow.readVal_index (hr : r = 58 ∨ r = 59) (u : Use) (he : 1 ≤ e) :
    readVal u t r = t.regs[r] := by
  obtain ⟨old, hrec⟩ := hw.record
  have hval : table3Val t u r = t.regs[r] := by
    rw [table3Val, hrec]
    dsimp only [plainRec]
    rw [if_pos he, ite_self]
  rcases hr with rfl | rfl <;> exact hval

/-- Every instruction must wait for two others to read R60, R62 or R63 (70 R561). -/
theorem InWindow.reads_config (hr : r = 60 ∨ r = 62 ∨ r = 63) (u : Use) :
    readCheck u t r = if 2 ≤ e then .ok () else
      .error (.fault (if 2 ≤ e + x then .loadHardwareRegisterHazard else .writeDelayHazard r.val e)) := by
  rw [hw.readCheck_config hr, hw.useCheck]

theorem InWindow.readVal_config (hr : r = 62 ∨ r = 63) (u : Use) (he : 2 ≤ e) :
    readVal u t r = t.regs[r] := by
  obtain ⟨old, hrec⟩ := hw.record
  have hval : useVal t (.reg r) 2 t.regs[r] = t.regs[r] := by
    rw [useVal, hrec]
    exact if_pos he
  rcases hr with rfl | rfl <;> exact hval

end

/-- R58 and R59 after their write: ALU instructions read them at once, the others after one instruction that
is no load of a hardware register (70 R560, R565). -/
theorem index_window {t : State} {r : Reg} (hr : r = 58 ∨ r = 59) (hw : InWindow t r 0 0) :
    Readable .alu t r ∧ readVal .alu t r = t.regs[r] ∧ ∀ u : Use, u = .other ∨ u = .branch →
      readCheck u t r = .error (.fault (.writeDelayHazard r.val 0)) ∧
      ∀ (j : Instr) (t1 : State), Completes j t t1 → r ∉ dests j →
        (¬ HardwareLoad j → Readable u t1 r ∧ readVal u t1 r = t.regs[r]) ∧
        (HardwareLoad j → readCheck u t1 r = .error (.fault .loadHardwareRegisterHazard)) := by
  obtain ⟨halu, hval⟩ := hw.reads_exempt hr (u := .alu) rfl
  refine ⟨halu, hval, fun u hu => ?_⟩
  have hexempt : exempt u .plain = false := by rcases hu with rfl | rfl <;> rfl
  refine ⟨hw.reads_index hr hexempt, fun j t1 hj hd => ⟨fun hn => ?_, fun hl => ?_⟩⟩
  · have hnext := hw.next (.inl hr) hj hd hn (by decide)
    exact ⟨hnext.reads_index hr hexempt,
      (hnext.readVal_index hr u (le_refl 1)).trans (hw.value (.inl hr) hj hd)⟩
  · exact (hw.load (.inl hr) hj hd hl (by decide)).reads_index hr hexempt

/-- R60, R62 and R63 after their write: they are read after two instructions that are no loads of a hardware
register (70 R561). -/
theorem config_window {t : State} {r : Reg} (hr : r = 60 ∨ r = 62 ∨ r = 63) (hw : InWindow t r 0 0) (u : Use) :
    readCheck u t r = .error (.fault (.writeDelayHazard r.val 0)) ∧
      ∀ (j : Instr) (t1 : State), Completes j t t1 → r ∉ dests j → ¬ HardwareLoad j →
        readCheck u t1 r = .error (.fault (.writeDelayHazard r.val 1)) ∧
        ∀ (k : Instr) (t2 : State), Completes k t1 t2 → r ∉ dests k → ¬ HardwareLoad k →
          Readable u t2 r ∧ (r ≠ 60 → readVal u t2 r = t.regs[r]) := by
  refine ⟨hw.reads_config hr u, fun j t1 hj hd hn => ?_⟩
  have hfirst := hw.next (.inr hr) hj hd hn (by decide)
  refine ⟨hfirst.reads_config hr u, fun k t2 hk hd2 hn2 => ?_⟩
  have hsecond := hfirst.next (.inr hr) hk hd2 hn2 (by decide)
  refine ⟨hsecond.reads_config hr u, fun h60 => ?_⟩
  calc readVal u t2 r
      = t2.regs[r] := hsecond.readVal_config (hr.resolve_left h60) u (le_refl 2)
    _ = t1.regs[r] := hfirst.value (.inr hr) hk hd2
    _ = t.regs[r] := hw.value (.inr hr) hj hd

/-- Settles O51: the write starts the register's window, each instruction between goes one step on in it, and
the reads are those of a window at that step. -/
theorem writeDelays : Obligations.WriteDelays := by
  unfold Obligations.WriteDelays
  intro i s t r hp hm halu hd hi
  refine ⟨fun um v e => ?_, fun hr => ?_, fun hr => ?_⟩
  · subst e
    exact limd_stores hp hi
  · exact index_window hr (completes_inWindow (.inl hr) hp hm halu hd hi)
  · exact config_window hr (completes_inWindow (.inr hr) hp hm halu hd hi)

end Sys2Proof.Machine
end
